-- ==== Sys2Proof/Word.lean ====
section
/-! DEFINITION. The widths of the machine (00_scope R9, R12): bytes, CPU words, and the PPU's 15-bit loopy registers,
14-bit access addresses and 6-bit colours. -/

namespace Sys2Proof

/-- `u8`: a register, a memory byte (R9, R12). -/
abbrev Byte := BitVec 8

/-- `u16`: PC and a CPU address (R9). -/
abbrev Word := BitVec 16

/-- A loopy register value, `v` or `t` (R37). -/
abbrev Loopy := BitVec 15

/-- A PPU-space access address, `v[13:0]` or a rendering fetch address (R9, R75). -/
abbrev PpuAddr := BitVec 14

/-- A palette entry or a pixel's colour index (R42, R44). -/
abbrev Colour := BitVec 6

end Sys2Proof
end

