-- ==== Sys2Proof/Syntax.lean ====
section
/-! DEFINITION. The instructions: one constructor per row of opcode_table.json (30_encoding R100 to R115), named by the
row's mnemonic and addressing mode, with the operand byte `n` or the 16-bit operand `w` = hh,ll the row carries. Beside
them what R102 and R117 say of a row: its mnemonic and its operand in the addressing mode's form. -/

namespace Sys2Proof

/-- The 56 mnemonics (R2). -/
inductive Mnemonic where
  | lda | ldx | ldy | sta | stx | sty | tax | tay | txa | tya | tsx | txs
  | adc | sbc | and | ora | eor | cmp | cpx | cpy | bit | inc | dec | inx
  | iny | dex | dey | asl | lsr | rol | ror | bcc | bcs | beq | bmi | bne
  | bpl | bvc | bvs | jmp | jsr | rts | rti | brk | pha | php | pla | plp
  | clc | cld | cli | clv | sec | sed | sei | nop
  deriving DecidableEq, Repr

/-- The addressing modes of R102. -/
inductive Mode where
  | implied | accumulator | immediate | zeroPage | zeroPageX | zeroPageY | absolute | absoluteX | absoluteY
  | indirectX | indirectY | relative | absoluteIndirect
  deriving DecidableEq, Repr

/-- How many operand bytes follow the opcode (R100: the addressing mode alone fixes the length). -/
def Mode.operandBytes : Mode → Nat
  | .implied | .accumulator => 0
  | .immediate | .zeroPage | .zeroPageX | .zeroPageY | .indirectX | .indirectY | .relative => 1
  | .absolute | .absoluteX | .absoluteY | .absoluteIndirect => 2

/-- A data operand in memory: the modes that have an effective address (R106 to R111). -/
inductive MemOperand where
  | zp (n : Byte) | zpX (n : Byte) | zpY (n : Byte)
  | abs (w : Word) | absX (w : Word) | absY (w : Word)
  | indX (n : Byte) | indY (n : Byte)
  deriving DecidableEq, Repr

/-- What `Src(mode)` reads: the immediate byte or a byte of memory (R118). -/
inductive DataOperand where
  | imm (n : Byte)
  | mem (m : MemOperand)
  deriving DecidableEq, Repr

/-- The operand of an instruction, whatever its mode (R102). `target` is the 16-bit operand of JMP absolute and JSR,
`pointer` that of JMP absolute-indirect, `rel` a branch's offset byte. -/
inductive Operand where
  | implied
  | acc
  | data (d : DataOperand)
  | rel (n : Byte)
  | target (w : Word)
  | pointer (w : Word)
  deriving DecidableEq, Repr

/-- The addressing mode an operand is written in (R102). -/
def Operand.mode : Operand → Mode
  | .implied => .implied
  | .acc => .accumulator
  | .data (.imm _) => .immediate
  | .data (.mem (.zp _)) => .zeroPage
  | .data (.mem (.zpX _)) => .zeroPageX
  | .data (.mem (.zpY _)) => .zeroPageY
  | .data (.mem (.abs _)) => .absolute
  | .data (.mem (.absX _)) => .absoluteX
  | .data (.mem (.absY _)) => .absoluteY
  | .data (.mem (.indX _)) => .indirectX
  | .data (.mem (.indY _)) => .indirectY
  | .rel _ => .relative
  | .target _ => .absolute
  | .pointer _ => .absoluteIndirect

/-- One constructor per row of opcode_table.json, in the order of the family files 40 to 44. -/
inductive Instr where
  | ldaIndX (n : Byte) | ldaZp (n : Byte) | ldaImm (n : Byte) | ldaAbs (w : Word)
  | ldaIndY (n : Byte) | ldaZpX (n : Byte) | ldaAbsY (w : Word) | ldaAbsX (w : Word)
  | ldxImm (n : Byte) | ldxZp (n : Byte) | ldxAbs (w : Word) | ldxZpY (n : Byte)
  | ldxAbsY (w : Word)
  | ldyImm (n : Byte) | ldyZp (n : Byte) | ldyAbs (w : Word) | ldyZpX (n : Byte)
  | ldyAbsX (w : Word)
  | staIndX (n : Byte) | staZp (n : Byte) | staAbs (w : Word) | staIndY (n : Byte)
  | staZpX (n : Byte) | staAbsY (w : Word) | staAbsX (w : Word)
  | stxZp (n : Byte) | stxAbs (w : Word) | stxZpY (n : Byte)
  | styZp (n : Byte) | styAbs (w : Word) | styZpX (n : Byte)
  | tax
  | tay
  | txa
  | tya
  | tsx
  | txs
  | adcIndX (n : Byte) | adcZp (n : Byte) | adcImm (n : Byte) | adcAbs (w : Word)
  | adcIndY (n : Byte) | adcZpX (n : Byte) | adcAbsY (w : Word) | adcAbsX (w : Word)
  | sbcIndX (n : Byte) | sbcZp (n : Byte) | sbcImm (n : Byte) | sbcAbs (w : Word)
  | sbcIndY (n : Byte) | sbcZpX (n : Byte) | sbcAbsY (w : Word) | sbcAbsX (w : Word)
  | andIndX (n : Byte) | andZp (n : Byte) | andImm (n : Byte) | andAbs (w : Word)
  | andIndY (n : Byte) | andZpX (n : Byte) | andAbsY (w : Word) | andAbsX (w : Word)
  | oraIndX (n : Byte) | oraZp (n : Byte) | oraImm (n : Byte) | oraAbs (w : Word)
  | oraIndY (n : Byte) | oraZpX (n : Byte) | oraAbsY (w : Word) | oraAbsX (w : Word)
  | eorIndX (n : Byte) | eorZp (n : Byte) | eorImm (n : Byte) | eorAbs (w : Word)
  | eorIndY (n : Byte) | eorZpX (n : Byte) | eorAbsY (w : Word) | eorAbsX (w : Word)
  | cmpIndX (n : Byte) | cmpZp (n : Byte) | cmpImm (n : Byte) | cmpAbs (w : Word)
  | cmpIndY (n : Byte) | cmpZpX (n : Byte) | cmpAbsY (w : Word) | cmpAbsX (w : Word)
  | cpxImm (n : Byte) | cpxZp (n : Byte) | cpxAbs (w : Word)
  | cpyImm (n : Byte) | cpyZp (n : Byte) | cpyAbs (w : Word)
  | bitZp (n : Byte) | bitAbs (w : Word)
  | incZp (n : Byte) | incAbs (w : Word) | incZpX (n : Byte) | incAbsX (w : Word)
  | decZp (n : Byte) | decAbs (w : Word) | decZpX (n : Byte) | decAbsX (w : Word)
  | inx
  | iny
  | dex
  | dey
  | aslZp (n : Byte) | aslAcc | aslAbs (w : Word) | aslZpX (n : Byte)
  | aslAbsX (w : Word)
  | lsrZp (n : Byte) | lsrAcc | lsrAbs (w : Word) | lsrZpX (n : Byte)
  | lsrAbsX (w : Word)
  | rolZp (n : Byte) | rolAcc | rolAbs (w : Word) | rolZpX (n : Byte)
  | rolAbsX (w : Word)
  | rorZp (n : Byte) | rorAcc | rorAbs (w : Word) | rorZpX (n : Byte)
  | rorAbsX (w : Word)
  | bcc (n : Byte)
  | bcs (n : Byte)
  | beq (n : Byte)
  | bmi (n : Byte)
  | bne (n : Byte)
  | bpl (n : Byte)
  | bvc (n : Byte)
  | bvs (n : Byte)
  | jmpAbs (w : Word) | jmpInd (w : Word)
  | jsr (w : Word)
  | rts
  | rti
  | brk
  | pha
  | php
  | pla
  | plp
  | clc
  | cld
  | cli
  | clv
  | sec
  | sed
  | sei
  | nop
  deriving DecidableEq, Repr

/-- The mnemonic of an instruction (the rule of its family file is named after it). -/
def Instr.mnemonic : Instr → Mnemonic
  | .ldaIndX _ | .ldaZp _ | .ldaImm _ | .ldaAbs _ | .ldaIndY _ | .ldaZpX _ | .ldaAbsY _ | .ldaAbsX _ => .lda
  | .ldxImm _ | .ldxZp _ | .ldxAbs _ | .ldxZpY _ | .ldxAbsY _ => .ldx
  | .ldyImm _ | .ldyZp _ | .ldyAbs _ | .ldyZpX _ | .ldyAbsX _ => .ldy
  | .staIndX _ | .staZp _ | .staAbs _ | .staIndY _ | .staZpX _ | .staAbsY _ | .staAbsX _ => .sta
  | .stxZp _ | .stxAbs _ | .stxZpY _ => .stx
  | .styZp _ | .styAbs _ | .styZpX _ => .sty
  | .tax => .tax
  | .tay => .tay
  | .txa => .txa
  | .tya => .tya
  | .tsx => .tsx
  | .txs => .txs
  | .adcIndX _ | .adcZp _ | .adcImm _ | .adcAbs _ | .adcIndY _ | .adcZpX _ | .adcAbsY _ | .adcAbsX _ => .adc
  | .sbcIndX _ | .sbcZp _ | .sbcImm _ | .sbcAbs _ | .sbcIndY _ | .sbcZpX _ | .sbcAbsY _ | .sbcAbsX _ => .sbc
  | .andIndX _ | .andZp _ | .andImm _ | .andAbs _ | .andIndY _ | .andZpX _ | .andAbsY _ | .andAbsX _ => .and
  | .oraIndX _ | .oraZp _ | .oraImm _ | .oraAbs _ | .oraIndY _ | .oraZpX _ | .oraAbsY _ | .oraAbsX _ => .ora
  | .eorIndX _ | .eorZp _ | .eorImm _ | .eorAbs _ | .eorIndY _ | .eorZpX _ | .eorAbsY _ | .eorAbsX _ => .eor
  | .cmpIndX _ | .cmpZp _ | .cmpImm _ | .cmpAbs _ | .cmpIndY _ | .cmpZpX _ | .cmpAbsY _ | .cmpAbsX _ => .cmp
  | .cpxImm _ | .cpxZp _ | .cpxAbs _ => .cpx
  | .cpyImm _ | .cpyZp _ | .cpyAbs _ => .cpy
  | .bitZp _ | .bitAbs _ => .bit
  | .incZp _ | .incAbs _ | .incZpX _ | .incAbsX _ => .inc
  | .decZp _ | .decAbs _ | .decZpX _ | .decAbsX _ => .dec
  | .inx => .inx
  | .iny => .iny
  | .dex => .dex
  | .dey => .dey
  | .aslZp _ | .aslAcc | .aslAbs _ | .aslZpX _ | .aslAbsX _ => .asl
  | .lsrZp _ | .lsrAcc | .lsrAbs _ | .lsrZpX _ | .lsrAbsX _ => .lsr
  | .rolZp _ | .rolAcc | .rolAbs _ | .rolZpX _ | .rolAbsX _ => .rol
  | .rorZp _ | .rorAcc | .rorAbs _ | .rorZpX _ | .rorAbsX _ => .ror
  | .bcc _ => .bcc
  | .bcs _ => .bcs
  | .beq _ => .beq
  | .bmi _ => .bmi
  | .bne _ => .bne
  | .bpl _ => .bpl
  | .bvc _ => .bvc
  | .bvs _ => .bvs
  | .jmpAbs _ | .jmpInd _ => .jmp
  | .jsr _ => .jsr
  | .rts => .rts
  | .rti => .rti
  | .brk => .brk
  | .pha => .pha
  | .php => .php
  | .pla => .pla
  | .plp => .plp
  | .clc => .clc
  | .cld => .cld
  | .cli => .cli
  | .clv => .clv
  | .sec => .sec
  | .sed => .sed
  | .sei => .sei
  | .nop => .nop

/-- The operand of an instruction in its row's addressing mode. -/
def Instr.operand : Instr → Operand
  | .ldaIndX n => .data (.mem (.indX n))
  | .ldaZp n => .data (.mem (.zp n))
  | .ldaImm n => .data (.imm n)
  | .ldaAbs w => .data (.mem (.abs w))
  | .ldaIndY n => .data (.mem (.indY n))
  | .ldaZpX n => .data (.mem (.zpX n))
  | .ldaAbsY w => .data (.mem (.absY w))
  | .ldaAbsX w => .data (.mem (.absX w))
  | .ldxImm n => .data (.imm n)
  | .ldxZp n => .data (.mem (.zp n))
  | .ldxAbs w => .data (.mem (.abs w))
  | .ldxZpY n => .data (.mem (.zpY n))
  | .ldxAbsY w => .data (.mem (.absY w))
  | .ldyImm n => .data (.imm n)
  | .ldyZp n => .data (.mem (.zp n))
  | .ldyAbs w => .data (.mem (.abs w))
  | .ldyZpX n => .data (.mem (.zpX n))
  | .ldyAbsX w => .data (.mem (.absX w))
  | .staIndX n => .data (.mem (.indX n))
  | .staZp n => .data (.mem (.zp n))
  | .staAbs w => .data (.mem (.abs w))
  | .staIndY n => .data (.mem (.indY n))
  | .staZpX n => .data (.mem (.zpX n))
  | .staAbsY w => .data (.mem (.absY w))
  | .staAbsX w => .data (.mem (.absX w))
  | .stxZp n => .data (.mem (.zp n))
  | .stxAbs w => .data (.mem (.abs w))
  | .stxZpY n => .data (.mem (.zpY n))
  | .styZp n => .data (.mem (.zp n))
  | .styAbs w => .data (.mem (.abs w))
  | .styZpX n => .data (.mem (.zpX n))
  | .tax => .implied
  | .tay => .implied
  | .txa => .implied
  | .tya => .implied
  | .tsx => .implied
  | .txs => .implied
  | .adcIndX n => .data (.mem (.indX n))
  | .adcZp n => .data (.mem (.zp n))
  | .adcImm n => .data (.imm n)
  | .adcAbs w => .data (.mem (.abs w))
  | .adcIndY n => .data (.mem (.indY n))
  | .adcZpX n => .data (.mem (.zpX n))
  | .adcAbsY w => .data (.mem (.absY w))
  | .adcAbsX w => .data (.mem (.absX w))
  | .sbcIndX n => .data (.mem (.indX n))
  | .sbcZp n => .data (.mem (.zp n))
  | .sbcImm n => .data (.imm n)
  | .sbcAbs w => .data (.mem (.abs w))
  | .sbcIndY n => .data (.mem (.indY n))
  | .sbcZpX n => .data (.mem (.zpX n))
  | .sbcAbsY w => .data (.mem (.absY w))
  | .sbcAbsX w => .data (.mem (.absX w))
  | .andIndX n => .data (.mem (.indX n))
  | .andZp n => .data (.mem (.zp n))
  | .andImm n => .data (.imm n)
  | .andAbs w => .data (.mem (.abs w))
  | .andIndY n => .data (.mem (.indY n))
  | .andZpX n => .data (.mem (.zpX n))
  | .andAbsY w => .data (.mem (.absY w))
  | .andAbsX w => .data (.mem (.absX w))
  | .oraIndX n => .data (.mem (.indX n))
  | .oraZp n => .data (.mem (.zp n))
  | .oraImm n => .data (.imm n)
  | .oraAbs w => .data (.mem (.abs w))
  | .oraIndY n => .data (.mem (.indY n))
  | .oraZpX n => .data (.mem (.zpX n))
  | .oraAbsY w => .data (.mem (.absY w))
  | .oraAbsX w => .data (.mem (.absX w))
  | .eorIndX n => .data (.mem (.indX n))
  | .eorZp n => .data (.mem (.zp n))
  | .eorImm n => .data (.imm n)
  | .eorAbs w => .data (.mem (.abs w))
  | .eorIndY n => .data (.mem (.indY n))
  | .eorZpX n => .data (.mem (.zpX n))
  | .eorAbsY w => .data (.mem (.absY w))
  | .eorAbsX w => .data (.mem (.absX w))
  | .cmpIndX n => .data (.mem (.indX n))
  | .cmpZp n => .data (.mem (.zp n))
  | .cmpImm n => .data (.imm n)
  | .cmpAbs w => .data (.mem (.abs w))
  | .cmpIndY n => .data (.mem (.indY n))
  | .cmpZpX n => .data (.mem (.zpX n))
  | .cmpAbsY w => .data (.mem (.absY w))
  | .cmpAbsX w => .data (.mem (.absX w))
  | .cpxImm n => .data (.imm n)
  | .cpxZp n => .data (.mem (.zp n))
  | .cpxAbs w => .data (.mem (.abs w))
  | .cpyImm n => .data (.imm n)
  | .cpyZp n => .data (.mem (.zp n))
  | .cpyAbs w => .data (.mem (.abs w))
  | .bitZp n => .data (.mem (.zp n))
  | .bitAbs w => .data (.mem (.abs w))
  | .incZp n => .data (.mem (.zp n))
  | .incAbs w => .data (.mem (.abs w))
  | .incZpX n => .data (.mem (.zpX n))
  | .incAbsX w => .data (.mem (.absX w))
  | .decZp n => .data (.mem (.zp n))
  | .decAbs w => .data (.mem (.abs w))
  | .decZpX n => .data (.mem (.zpX n))
  | .decAbsX w => .data (.mem (.absX w))
  | .inx => .implied
  | .iny => .implied
  | .dex => .implied
  | .dey => .implied
  | .aslZp n => .data (.mem (.zp n))
  | .aslAcc => .acc
  | .aslAbs w => .data (.mem (.abs w))
  | .aslZpX n => .data (.mem (.zpX n))
  | .aslAbsX w => .data (.mem (.absX w))
  | .lsrZp n => .data (.mem (.zp n))
  | .lsrAcc => .acc
  | .lsrAbs w => .data (.mem (.abs w))
  | .lsrZpX n => .data (.mem (.zpX n))
  | .lsrAbsX w => .data (.mem (.absX w))
  | .rolZp n => .data (.mem (.zp n))
  | .rolAcc => .acc
  | .rolAbs w => .data (.mem (.abs w))
  | .rolZpX n => .data (.mem (.zpX n))
  | .rolAbsX w => .data (.mem (.absX w))
  | .rorZp n => .data (.mem (.zp n))
  | .rorAcc => .acc
  | .rorAbs w => .data (.mem (.abs w))
  | .rorZpX n => .data (.mem (.zpX n))
  | .rorAbsX w => .data (.mem (.absX w))
  | .bcc n => .rel n
  | .bcs n => .rel n
  | .beq n => .rel n
  | .bmi n => .rel n
  | .bne n => .rel n
  | .bpl n => .rel n
  | .bvc n => .rel n
  | .bvs n => .rel n
  | .jmpAbs w => .target w
  | .jmpInd w => .pointer w
  | .jsr w => .target w
  | .rts => .implied
  | .rti => .implied
  | .brk => .implied
  | .pha => .implied
  | .php => .implied
  | .pla => .implied
  | .plp => .implied
  | .clc => .implied
  | .cld => .implied
  | .cli => .implied
  | .clv => .implied
  | .sec => .implied
  | .sed => .implied
  | .sei => .implied
  | .nop => .implied

end Sys2Proof
end

