-- ==== Sys2Proof/WellFormed.lean ====
section
/-! DEFINITION. Well-formedness of an instruction: its mnemonic exists in its operand's addressing mode. The check is
written from the "Encoding" line of each instruction's own rule (R130 to R217), not from the opcode table, so that the
two can be compared. Operand widths need no check: the operand types carry them. -/

namespace Sys2Proof

/-- The eight modes of LDA, ADC, SBC, AND, ORA, EOR and CMP (R130, R152 to R157). -/
def accumulatorModes : List Mode :=
  [.immediate, .zeroPage, .zeroPageX, .absolute, .absoluteX, .absoluteY, .indirectX, .indirectY]

/-- The modes each mnemonic has, from the "Encoding" line of its rule. -/
def Mnemonic.modes : Mnemonic → List Mode
  | .lda | .adc | .sbc | .and | .ora | .eor | .cmp => accumulatorModes
  | .sta => [.zeroPage, .zeroPageX, .absolute, .absoluteX, .absoluteY, .indirectX, .indirectY]
  | .ldx => [.immediate, .zeroPage, .zeroPageY, .absolute, .absoluteY]
  | .ldy => [.immediate, .zeroPage, .zeroPageX, .absolute, .absoluteX]
  | .stx => [.zeroPage, .zeroPageY, .absolute]
  | .sty => [.zeroPage, .zeroPageX, .absolute]
  | .cpx | .cpy => [.immediate, .zeroPage, .absolute]
  | .bit => [.zeroPage, .absolute]
  | .inc | .dec => [.zeroPage, .zeroPageX, .absolute, .absoluteX]
  | .asl | .lsr | .rol | .ror => [.accumulator, .zeroPage, .zeroPageX, .absolute, .absoluteX]
  | .bcc | .bcs | .beq | .bmi | .bne | .bpl | .bvc | .bvs => [.relative]
  | .jmp => [.absolute, .absoluteIndirect]
  | .jsr => [.absolute]
  | .tax | .tay | .txa | .tya | .tsx | .txs | .inx | .iny | .dex | .dey | .rts | .rti | .brk
  | .pha | .php | .pla | .plp | .clc | .cld | .cli | .clv | .sec | .sed | .sei | .nop => [.implied]

/-- A mnemonic with an operand is well formed when the mnemonic has the operand's mode. -/
def wellFormedForm (m : Mnemonic) (o : Operand) : Bool := m.modes.contains o.mode

/-- An instruction is well formed when its mnemonic and operand are. -/
def Instr.wellFormed (i : Instr) : Bool := wellFormedForm i.mnemonic i.operand

end Sys2Proof
end

