-- ==== Sys2Proof/Decode.lean ====
section
/-! DEFINITION. Decoding, total on any bytes, and encoding (30_encoding R100, R101, R114, R115). The opcode map is the
16 by 16 grid of R115; the rows (opcode, base cycles, page-cross penalty) are those of opcode_table.json: two
transcriptions, which the round trip compares. -/

namespace Sys2Proof

/-- The 16-bit value `{hi, lo}` of two bytes in memory order (R78: the byte at the lower address is bits 7:0). -/
def wordOf (lo hi : Byte) : Word := hi ++ lo

/-- Bits 7:0 of a word. -/
def loByte (w : Word) : Byte := w.extractLsb' 0 8

/-- Bits 15:8 of a word: its page. -/
def hiByte (w : Word) : Byte := w.extractLsb' 8 8

/-- What an opcode byte says of its instruction: nothing (R114), or the instruction once 0, 1 or 2 operand bytes are known. -/
inductive Shape where
  | invalid
  | bare (i : Instr)
  | byte (f : Byte → Instr)
  | word (f : Word → Instr)

/-- How many operand bytes an opcode asks for. -/
def Shape.operandBytes : Shape → Nat
  | .invalid | .bare _ => 0
  | .byte _ => 1
  | .word _ => 2

/-- The opcode map of R115: row = opcode bits 7:4, column = bits 3:0; `invalid` is the map's `--`. -/
def opcodeMap (row : Nat) : List Shape :=
  match row with
  | 0 =>
    [.bare .brk, .byte .oraIndX, .invalid, .invalid, .invalid, .byte .oraZp,
     .byte .aslZp, .invalid, .bare .php, .byte .oraImm, .bare .aslAcc,
     .invalid, .invalid, .word .oraAbs, .word .aslAbs, .invalid]
  | 1 =>
    [.byte .bpl, .byte .oraIndY, .invalid, .invalid, .invalid, .byte .oraZpX,
     .byte .aslZpX, .invalid, .bare .clc, .word .oraAbsY, .invalid,
     .invalid, .invalid, .word .oraAbsX, .word .aslAbsX, .invalid]
  | 2 =>
    [.word .jsr, .byte .andIndX, .invalid, .invalid, .byte .bitZp, .byte .andZp,
     .byte .rolZp, .invalid, .bare .plp, .byte .andImm, .bare .rolAcc,
     .invalid, .word .bitAbs, .word .andAbs, .word .rolAbs, .invalid]
  | 3 =>
    [.byte .bmi, .byte .andIndY, .invalid, .invalid, .invalid, .byte .andZpX,
     .byte .rolZpX, .invalid, .bare .sec, .word .andAbsY, .invalid,
     .invalid, .invalid, .word .andAbsX, .word .rolAbsX, .invalid]
  | 4 =>
    [.bare .rti, .byte .eorIndX, .invalid, .invalid, .invalid, .byte .eorZp,
     .byte .lsrZp, .invalid, .bare .pha, .byte .eorImm, .bare .lsrAcc,
     .invalid, .word .jmpAbs, .word .eorAbs, .word .lsrAbs, .invalid]
  | 5 =>
    [.byte .bvc, .byte .eorIndY, .invalid, .invalid, .invalid, .byte .eorZpX,
     .byte .lsrZpX, .invalid, .bare .cli, .word .eorAbsY, .invalid,
     .invalid, .invalid, .word .eorAbsX, .word .lsrAbsX, .invalid]
  | 6 =>
    [.bare .rts, .byte .adcIndX, .invalid, .invalid, .invalid, .byte .adcZp,
     .byte .rorZp, .invalid, .bare .pla, .byte .adcImm, .bare .rorAcc,
     .invalid, .word .jmpInd, .word .adcAbs, .word .rorAbs, .invalid]
  | 7 =>
    [.byte .bvs, .byte .adcIndY, .invalid, .invalid, .invalid, .byte .adcZpX,
     .byte .rorZpX, .invalid, .bare .sei, .word .adcAbsY, .invalid,
     .invalid, .invalid, .word .adcAbsX, .word .rorAbsX, .invalid]
  | 8 =>
    [.invalid, .byte .staIndX, .invalid, .invalid, .byte .styZp, .byte .staZp,
     .byte .stxZp, .invalid, .bare .dey, .invalid, .bare .txa,
     .invalid, .word .styAbs, .word .staAbs, .word .stxAbs, .invalid]
  | 9 =>
    [.byte .bcc, .byte .staIndY, .invalid, .invalid, .byte .styZpX, .byte .staZpX,
     .byte .stxZpY, .invalid, .bare .tya, .word .staAbsY, .bare .txs,
     .invalid, .invalid, .word .staAbsX, .invalid, .invalid]
  | 10 =>
    [.byte .ldyImm, .byte .ldaIndX, .byte .ldxImm, .invalid, .byte .ldyZp, .byte .ldaZp,
     .byte .ldxZp, .invalid, .bare .tay, .byte .ldaImm, .bare .tax,
     .invalid, .word .ldyAbs, .word .ldaAbs, .word .ldxAbs, .invalid]
  | 11 =>
    [.byte .bcs, .byte .ldaIndY, .invalid, .invalid, .byte .ldyZpX, .byte .ldaZpX,
     .byte .ldxZpY, .invalid, .bare .clv, .word .ldaAbsY, .bare .tsx,
     .invalid, .word .ldyAbsX, .word .ldaAbsX, .word .ldxAbsY, .invalid]
  | 12 =>
    [.byte .cpyImm, .byte .cmpIndX, .invalid, .invalid, .byte .cpyZp, .byte .cmpZp,
     .byte .decZp, .invalid, .bare .iny, .byte .cmpImm, .bare .dex,
     .invalid, .word .cpyAbs, .word .cmpAbs, .word .decAbs, .invalid]
  | 13 =>
    [.byte .bne, .byte .cmpIndY, .invalid, .invalid, .invalid, .byte .cmpZpX,
     .byte .decZpX, .invalid, .bare .cld, .word .cmpAbsY, .invalid,
     .invalid, .invalid, .word .cmpAbsX, .word .decAbsX, .invalid]
  | 14 =>
    [.byte .cpxImm, .byte .sbcIndX, .invalid, .invalid, .byte .cpxZp, .byte .sbcZp,
     .byte .incZp, .invalid, .bare .inx, .byte .sbcImm, .bare .nop,
     .invalid, .word .cpxAbs, .word .sbcAbs, .word .incAbs, .invalid]
  | 15 =>
    [.byte .beq, .byte .sbcIndY, .invalid, .invalid, .invalid, .byte .sbcZpX,
     .byte .incZpX, .invalid, .bare .sed, .word .sbcAbsY, .invalid,
     .invalid, .invalid, .word .sbcAbsX, .word .incAbsX, .invalid]
  | _ => []

/-- The shape of an opcode byte (R100: the opcode byte alone selects the mnemonic and the addressing mode). -/
def shapeOf (op : Byte) : Shape :=
  ((opcodeMap (op.toNat / 16))[op.toNat % 16]?).getD .invalid

/-- Why bytes are no instruction: the opcode is one of the 105 of R114, or the bytes end before the operand does. -/
inductive DecodeError where
  | invalidOpcode (op : Byte)
  | truncated
  deriving DecidableEq, Repr

/-- An instruction read from the front of some bytes, with the bytes after it. -/
def decode : List Byte → Except DecodeError (Instr × List Byte)
  | [] => .error .truncated
  | op :: rest =>
    match shapeOf op with
    | .invalid => .error (.invalidOpcode op)
    | .bare i => .ok (i, rest)
    | .byte f =>
      match rest with
      | n :: rest' => .ok (f n, rest')
      | [] => .error .truncated
    | .word f =>
      match rest with
      | ll :: hh :: rest' => .ok (f (wordOf ll hh), rest')
      | _ => .error .truncated

/-- One row of opcode_table.json: the opcode byte, `base_cycles` and `page_cross_penalty` (R115, R116). -/
structure Row where
  opcode : Byte
  baseCycles : Nat
  pagePenalty : Bool
  deriving DecidableEq, Repr

/-- The row of each instruction in opcode_table.json. -/
def Instr.row : Instr → Row
  | .ldaIndX _ => ⟨0xA1#8, 6, false⟩
  | .ldaZp _ => ⟨0xA5#8, 3, false⟩
  | .ldaImm _ => ⟨0xA9#8, 2, false⟩
  | .ldaAbs _ => ⟨0xAD#8, 4, false⟩
  | .ldaIndY _ => ⟨0xB1#8, 5, true⟩
  | .ldaZpX _ => ⟨0xB5#8, 4, false⟩
  | .ldaAbsY _ => ⟨0xB9#8, 4, true⟩
  | .ldaAbsX _ => ⟨0xBD#8, 4, true⟩
  | .ldxImm _ => ⟨0xA2#8, 2, false⟩
  | .ldxZp _ => ⟨0xA6#8, 3, false⟩
  | .ldxAbs _ => ⟨0xAE#8, 4, false⟩
  | .ldxZpY _ => ⟨0xB6#8, 4, false⟩
  | .ldxAbsY _ => ⟨0xBE#8, 4, true⟩
  | .ldyImm _ => ⟨0xA0#8, 2, false⟩
  | .ldyZp _ => ⟨0xA4#8, 3, false⟩
  | .ldyAbs _ => ⟨0xAC#8, 4, false⟩
  | .ldyZpX _ => ⟨0xB4#8, 4, false⟩
  | .ldyAbsX _ => ⟨0xBC#8, 4, true⟩
  | .staIndX _ => ⟨0x81#8, 6, false⟩
  | .staZp _ => ⟨0x85#8, 3, false⟩
  | .staAbs _ => ⟨0x8D#8, 4, false⟩
  | .staIndY _ => ⟨0x91#8, 6, false⟩
  | .staZpX _ => ⟨0x95#8, 4, false⟩
  | .staAbsY _ => ⟨0x99#8, 5, false⟩
  | .staAbsX _ => ⟨0x9D#8, 5, false⟩
  | .stxZp _ => ⟨0x86#8, 3, false⟩
  | .stxAbs _ => ⟨0x8E#8, 4, false⟩
  | .stxZpY _ => ⟨0x96#8, 4, false⟩
  | .styZp _ => ⟨0x84#8, 3, false⟩
  | .styAbs _ => ⟨0x8C#8, 4, false⟩
  | .styZpX _ => ⟨0x94#8, 4, false⟩
  | .tax => ⟨0xAA#8, 2, false⟩
  | .tay => ⟨0xA8#8, 2, false⟩
  | .txa => ⟨0x8A#8, 2, false⟩
  | .tya => ⟨0x98#8, 2, false⟩
  | .tsx => ⟨0xBA#8, 2, false⟩
  | .txs => ⟨0x9A#8, 2, false⟩
  | .adcIndX _ => ⟨0x61#8, 6, false⟩
  | .adcZp _ => ⟨0x65#8, 3, false⟩
  | .adcImm _ => ⟨0x69#8, 2, false⟩
  | .adcAbs _ => ⟨0x6D#8, 4, false⟩
  | .adcIndY _ => ⟨0x71#8, 5, true⟩
  | .adcZpX _ => ⟨0x75#8, 4, false⟩
  | .adcAbsY _ => ⟨0x79#8, 4, true⟩
  | .adcAbsX _ => ⟨0x7D#8, 4, true⟩
  | .sbcIndX _ => ⟨0xE1#8, 6, false⟩
  | .sbcZp _ => ⟨0xE5#8, 3, false⟩
  | .sbcImm _ => ⟨0xE9#8, 2, false⟩
  | .sbcAbs _ => ⟨0xED#8, 4, false⟩
  | .sbcIndY _ => ⟨0xF1#8, 5, true⟩
  | .sbcZpX _ => ⟨0xF5#8, 4, false⟩
  | .sbcAbsY _ => ⟨0xF9#8, 4, true⟩
  | .sbcAbsX _ => ⟨0xFD#8, 4, true⟩
  | .andIndX _ => ⟨0x21#8, 6, false⟩
  | .andZp _ => ⟨0x25#8, 3, false⟩
  | .andImm _ => ⟨0x29#8, 2, false⟩
  | .andAbs _ => ⟨0x2D#8, 4, false⟩
  | .andIndY _ => ⟨0x31#8, 5, true⟩
  | .andZpX _ => ⟨0x35#8, 4, false⟩
  | .andAbsY _ => ⟨0x39#8, 4, true⟩
  | .andAbsX _ => ⟨0x3D#8, 4, true⟩
  | .oraIndX _ => ⟨0x01#8, 6, false⟩
  | .oraZp _ => ⟨0x05#8, 3, false⟩
  | .oraImm _ => ⟨0x09#8, 2, false⟩
  | .oraAbs _ => ⟨0x0D#8, 4, false⟩
  | .oraIndY _ => ⟨0x11#8, 5, true⟩
  | .oraZpX _ => ⟨0x15#8, 4, false⟩
  | .oraAbsY _ => ⟨0x19#8, 4, true⟩
  | .oraAbsX _ => ⟨0x1D#8, 4, true⟩
  | .eorIndX _ => ⟨0x41#8, 6, false⟩
  | .eorZp _ => ⟨0x45#8, 3, false⟩
  | .eorImm _ => ⟨0x49#8, 2, false⟩
  | .eorAbs _ => ⟨0x4D#8, 4, false⟩
  | .eorIndY _ => ⟨0x51#8, 5, true⟩
  | .eorZpX _ => ⟨0x55#8, 4, false⟩
  | .eorAbsY _ => ⟨0x59#8, 4, true⟩
  | .eorAbsX _ => ⟨0x5D#8, 4, true⟩
  | .cmpIndX _ => ⟨0xC1#8, 6, false⟩
  | .cmpZp _ => ⟨0xC5#8, 3, false⟩
  | .cmpImm _ => ⟨0xC9#8, 2, false⟩
  | .cmpAbs _ => ⟨0xCD#8, 4, false⟩
  | .cmpIndY _ => ⟨0xD1#8, 5, true⟩
  | .cmpZpX _ => ⟨0xD5#8, 4, false⟩
  | .cmpAbsY _ => ⟨0xD9#8, 4, true⟩
  | .cmpAbsX _ => ⟨0xDD#8, 4, true⟩
  | .cpxImm _ => ⟨0xE0#8, 2, false⟩
  | .cpxZp _ => ⟨0xE4#8, 3, false⟩
  | .cpxAbs _ => ⟨0xEC#8, 4, false⟩
  | .cpyImm _ => ⟨0xC0#8, 2, false⟩
  | .cpyZp _ => ⟨0xC4#8, 3, false⟩
  | .cpyAbs _ => ⟨0xCC#8, 4, false⟩
  | .bitZp _ => ⟨0x24#8, 3, false⟩
  | .bitAbs _ => ⟨0x2C#8, 4, false⟩
  | .incZp _ => ⟨0xE6#8, 5, false⟩
  | .incAbs _ => ⟨0xEE#8, 6, false⟩
  | .incZpX _ => ⟨0xF6#8, 6, false⟩
  | .incAbsX _ => ⟨0xFE#8, 7, false⟩
  | .decZp _ => ⟨0xC6#8, 5, false⟩
  | .decAbs _ => ⟨0xCE#8, 6, false⟩
  | .decZpX _ => ⟨0xD6#8, 6, false⟩
  | .decAbsX _ => ⟨0xDE#8, 7, false⟩
  | .inx => ⟨0xE8#8, 2, false⟩
  | .iny => ⟨0xC8#8, 2, false⟩
  | .dex => ⟨0xCA#8, 2, false⟩
  | .dey => ⟨0x88#8, 2, false⟩
  | .aslZp _ => ⟨0x06#8, 5, false⟩
  | .aslAcc => ⟨0x0A#8, 2, false⟩
  | .aslAbs _ => ⟨0x0E#8, 6, false⟩
  | .aslZpX _ => ⟨0x16#8, 6, false⟩
  | .aslAbsX _ => ⟨0x1E#8, 7, false⟩
  | .lsrZp _ => ⟨0x46#8, 5, false⟩
  | .lsrAcc => ⟨0x4A#8, 2, false⟩
  | .lsrAbs _ => ⟨0x4E#8, 6, false⟩
  | .lsrZpX _ => ⟨0x56#8, 6, false⟩
  | .lsrAbsX _ => ⟨0x5E#8, 7, false⟩
  | .rolZp _ => ⟨0x26#8, 5, false⟩
  | .rolAcc => ⟨0x2A#8, 2, false⟩
  | .rolAbs _ => ⟨0x2E#8, 6, false⟩
  | .rolZpX _ => ⟨0x36#8, 6, false⟩
  | .rolAbsX _ => ⟨0x3E#8, 7, false⟩
  | .rorZp _ => ⟨0x66#8, 5, false⟩
  | .rorAcc => ⟨0x6A#8, 2, false⟩
  | .rorAbs _ => ⟨0x6E#8, 6, false⟩
  | .rorZpX _ => ⟨0x76#8, 6, false⟩
  | .rorAbsX _ => ⟨0x7E#8, 7, false⟩
  | .bcc _ => ⟨0x90#8, 2, false⟩
  | .bcs _ => ⟨0xB0#8, 2, false⟩
  | .beq _ => ⟨0xF0#8, 2, false⟩
  | .bmi _ => ⟨0x30#8, 2, false⟩
  | .bne _ => ⟨0xD0#8, 2, false⟩
  | .bpl _ => ⟨0x10#8, 2, false⟩
  | .bvc _ => ⟨0x50#8, 2, false⟩
  | .bvs _ => ⟨0x70#8, 2, false⟩
  | .jmpAbs _ => ⟨0x4C#8, 3, false⟩
  | .jmpInd _ => ⟨0x6C#8, 5, false⟩
  | .jsr _ => ⟨0x20#8, 6, false⟩
  | .rts => ⟨0x60#8, 6, false⟩
  | .rti => ⟨0x40#8, 6, false⟩
  | .brk => ⟨0x00#8, 7, false⟩
  | .pha => ⟨0x48#8, 3, false⟩
  | .php => ⟨0x08#8, 3, false⟩
  | .pla => ⟨0x68#8, 4, false⟩
  | .plp => ⟨0x28#8, 4, false⟩
  | .clc => ⟨0x18#8, 2, false⟩
  | .cld => ⟨0xD8#8, 2, false⟩
  | .cli => ⟨0x58#8, 2, false⟩
  | .clv => ⟨0xB8#8, 2, false⟩
  | .sec => ⟨0x38#8, 2, false⟩
  | .sed => ⟨0xF8#8, 2, false⟩
  | .sei => ⟨0x78#8, 2, false⟩
  | .nop => ⟨0xEA#8, 2, false⟩

/-- The length of an instruction in bytes (R100). -/
def Instr.length (i : Instr) : Nat := 1 + i.operand.mode.operandBytes

/-- The bytes after the opcode (R100: a 2-byte operand is little-endian, `ll` then `hh`). -/
def MemOperand.bytes : MemOperand → List Byte
  | .zp n | .zpX n | .zpY n | .indX n | .indY n => [n]
  | .abs w | .absX w | .absY w => [loByte w, hiByte w]

/-- The bytes after the opcode, for any operand. -/
def Operand.bytes : Operand → List Byte
  | .implied | .acc => []
  | .data (.imm n) => [n]
  | .data (.mem m) => m.bytes
  | .rel n => [n]
  | .target w | .pointer w => [loByte w, hiByte w]

/-- The bytes of an instruction: the opcode of its row, then its operand (R100). -/
def encode (i : Instr) : List Byte := i.row.opcode :: i.operand.bytes

/-- Byte `k` of a number whose bits count from the first byte's bit 0. -/
def tableByte (w k : Nat) : Byte := BitVec.ofNat 8 (w / 256 ^ k)

/-- The longest instruction, 3 bytes, of a table word of `nbits` bits: the bits above are 0. -/
def tableBytes (nbits w : Nat) : List Byte :=
  let v := w % 2 ^ nbits
  [tableByte v 0, tableByte v 1, tableByte v 2]

/-- The instruction the decoder reads from a table word. -/
def decodeTableWord (nbits w : Nat) : Option Instr :=
  match decode (tableBytes nbits w) with
  | .ok (i, _) => some i
  | .error _ => none

end Sys2Proof
end

