-- ==== Sys2Proof/Machine/Bits.lean ====
section
/-! DEFINITION. Fields of bit vectors (00_scope R12): writing a field `v[hi:lo]`, and the bits of the status register. -/

namespace Sys2Proof.Machine

/-- `r[lo+len-1 : lo] <- f`: every other bit of `r` is kept (R12). -/
def putBits {n len : Nat} (r : BitVec n) (lo : Nat) (f : BitVec len) : BitVec n :=
  (r &&& ~~~((BitVec.allOnes len).setWidth n <<< lo)) ||| (f.setWidth n <<< lo)

/-- `r[i] <- b`. -/
def putBit {n : Nat} (r : BitVec n) (i : Nat) (b : Bool) : BitVec n := putBits r i (BitVec.ofBool b)

/-- A bit as the number 0 or 1. -/
def bitNat (b : Bool) : Nat := if b then 1 else 0

/-- `s8(n)` added modulo 2^16: the offset byte sign-extended to 16 bits (R112, `sext_16`). -/
def sext16 (n : Byte) : Word := n.signExtend 16

/-- `zext_16` of a byte. -/
def zext16 (n : Byte) : Word := n.setWidth 16

end Sys2Proof.Machine
end

