-- ==== Sys2Proof/Config.lean ====
section
/-! DEFINITION. The values the spec leaves OPEN (00_scope R11, 92_eei_decisions D13, D34, D35), as constants with no
body: nothing can compute them, so what is proved holds whatever they are. -/

namespace Sys2Proof

/-- `IO_READ(a)`: the draw of a read of $4000-$4015, the `k`-th draw of the run (R65 to R67, D13). Log 5. -/
opaque Config.ioRead : Nat → Word → Byte

/-- `INPUT_READ(a)`: the draw of a read of $4016 or $4017 (R68, D13). Log 5. -/
opaque Config.inputRead : Nat → Word → Byte

/-- `PPU_OPEN_BUS`: the draw of a read of a write-only PPU port and of bits 4:0 of a status read (R300, R303, D35). Log 5. -/
opaque Config.ppuOpenBus : Nat → Byte

/-- `LAYER_TAG` (R345, D34): an injective map from four cases to 2-bit values is a permutation of the 2-bit values once
the cases are numbered 0 to 3. Log 6. -/
opaque Config.layerTag : Equiv.Perm (BitVec 2)

/-- Which of the five branches of R344 make up its "four cases": the branches in some order, the last two of which are
one case. The spec does not say which two. Log 6. -/
opaque Config.layerCases : Equiv.Perm (Fin 5)

end Sys2Proof
end

