-- ==== Sys2Proof/Machine/Memory.lean ====
section
/-! DEFINITION. One storage array (work RAM, PRG, CHR, save RAM, CIRAM, OAM, palette) as a list of index and value pairs
in ONE canonical form: indices strictly rising, below the array's size, no entry equal to what an unlisted index reads
as. An unlisted index reads as 0: for CHR-RAM that is the spec's value (10_state R46); for the arrays whose power-up or load
contents are OPEN parameters it is the value `State.reset` takes (DESIGN CHOICE, logs 1 to 3). -/

namespace Sys2Proof.Machine

/-- A storage array of cells of `w` bits; `Memory 8` is a list of `Host.Cell`. -/
abbrev Memory (w : Nat) := List (Nat × BitVec w)

/-- The cell at an index: 0 where none is listed. -/
def Memory.read {w : Nat} : Memory w → Nat → BitVec w
  | [], _ => 0#w
  | (k, v) :: m, a => if k = a then v else Memory.read m a

/-- A cell written, the canonical form kept: writing 0 removes the entry. -/
def Memory.write {w : Nat} : Memory w → Nat → BitVec w → Memory w
  | [], a, v => if v = 0#w then [] else [(a, v)]
  | (k, u) :: m, a, v =>
    if a < k then (if v = 0#w then (k, u) :: m else (a, v) :: (k, u) :: m)
    else if a = k then (if v = 0#w then m else (a, v) :: m)
    else (k, u) :: Memory.write m a v

/-- The canonical form from index `lo` on. -/
def Memory.wfFrom {w : Nat} (size : Nat) : Nat → Memory w → Bool
  | _, [] => true
  | lo, (k, v) :: m => decide (lo ≤ k) && decide (k < size) && (v != 0#w) && Memory.wfFrom size (k + 1) m

/-- The canonical form of an array of `size` cells. -/
def Memory.wf {w : Nat} (size : Nat) (m : Memory w) : Bool := Memory.wfFrom size 0 m

/-- The array that holds a list of values from index `k` on. -/
def Memory.ofListFrom {w : Nat} : Nat → List (BitVec w) → Memory w
  | _, [] => []
  | k, v :: vs => if v = 0#w then Memory.ofListFrom (k + 1) vs else (k, v) :: Memory.ofListFrom (k + 1) vs

/-- The array that holds a list of values from index 0 on. -/
def Memory.ofList {w : Nat} (vs : List (BitVec w)) : Memory w := Memory.ofListFrom 0 vs

end Sys2Proof.Machine
end

