-- ==== Sys2Proof/Machine/Params.lean ====
section
/-! DEFINITION. The numbers the spec fixes for the machine: clock divisors, the decided parameters SLICE and SPR_Y_OFS,
the vectors and the power-up register values (00_scope R11, 20_memory R80, 10_state R21, R23). -/

namespace Sys2Proof.Machine

/-- Master ticks per CPU cycle (R400). -/
def cpuDivisor : Nat := 12

/-- Master ticks per PPU dot (R400). -/
def ppuDivisor : Nat := 4

/-- `SLICE`: master ticks added per dispatcher iteration, decided 12 (R401, D24). -/
def slice : Nat := 12

/-- `SPR_Y_OFS`: the vertical offset of objects, decided 1 (R340, D29). -/
def sprYOfs : Nat := 1

/-- The NMI vector (R80, D3). -/
def nmiVector : Word := 0xFFFA#16

/-- The reset vector (R80, D3). -/
def resetVector : Word := 0xFFFC#16

/-- The break vector (R80, D3). -/
def breakVector : Word := 0xFFFE#16

/-- SP after a hard reset (R21, D4). -/
def resetSp : Byte := 0xFD#8

/-- P after a hard reset: I and U set (R23). -/
def resetP : Byte := 0x24#8

/-- The cost of an NMI entry (R425). -/
def nmiCost : Nat := 7

end Sys2Proof.Machine
end

