-- ==== Sys2Proof/Machine/State.lean ====
section
/-! DEFINITION. The machine's state: everything 10_state (R20 to R47) gives the machine, as plain data, with the three
fields that say where the host and the dispatcher stand (`boot`, `turn`, `draws`), and the state after a hard reset. -/

namespace Sys2Proof.Machine

/-- Why the machine has no further step. -/
inductive Fault where
  /-- Raised by `step` on a machine whose fault mark is set: an opcode byte outside the 151 was fetched at `pc`
  (R114, R435). The spec's own fault; safe: the console hardware would execute an unofficial opcode (D10). -/
  | invalidOpcode (op : Byte) (pc : Word)
  deriving DecidableEq, Repr

/-- Why a step or a host call has no meaning. -/
inductive Refusal where
  /-- Raised by `exec` for an instruction without a meaning: none is left. Safe. -/
  | notModelled (mnemonic : String)
  /-- Raised by `step` and the host calls before a cartridge is installed (R407, R464). Safe. -/
  | noCartridge
  /-- Raised by `step` (a run_frame) between a load and the first hard_reset after it (R407, R464). Safe. -/
  | runBeforeReset
  /-- Raised by a host call made while a run_frame is in progress (R407). Safe. -/
  | callInsideFrame
  deriving DecidableEq, Repr

/-- The CPU (10_state R20 to R29). P holds no B bit: bit 4 reads 0, bit 5 reads 1 (R24). -/
structure Cpu where
  a : Byte
  x : Byte
  y : Byte
  sp : Byte
  pc : Word
  p : Byte
  pendI : Option Bool
  carryI : Option Bool
  nmiPending : Bool
  cycles : Nat
  credit : Int
  deriving DecidableEq, Repr

/-- An entry of the frame buffer (R44). -/
structure Pixel where
  colour : Colour
  layer : BitVec 2
  deriving DecidableEq, Repr

/-- The PPU (10_state R32 to R44). `fb` lists the lines the current frame has rendered, by line number; a line not listed is
unspecified, and no entry of it can be read (R44, log 4). `frame` is the buffer the rendering sink was handed at the last
frameComplete (R345, R408), empty before the first: the model's own field (log 21). -/
structure Ppu where
  dot : Nat
  scanline : Nat
  odd : Bool
  ctrl : Byte
  mask : Byte
  vblank : Bool
  spr0hit : Bool
  overflow : Bool
  oamaddr : Byte
  v : Loopy
  t : Loopy
  x : BitVec 3
  w : Bool
  rdbuf : Byte
  oam : Memory 8
  sec : List Nat
  pal : Memory 6
  ciram : Memory 8
  fb : List (Nat × List Pixel)
  frame : List (Nat × List Pixel)
  deriving DecidableEq, Repr

/-- The mapper variants of the core (R370). -/
inductive Mapper where
  | nrom
  deriving DecidableEq, Repr

/-- `PRG_SIZE` (R10). -/
inductive PrgSize where
  | kb16 | kb32
  deriving DecidableEq, Repr

/-- `CHR_KIND` (R10). -/
inductive ChrKind where
  | rom | ram
  deriving DecidableEq, Repr

/-- `MIRRORING` (R10). -/
inductive Mirroring where
  | singleScreenA | singleScreenB | horizontal | vertical | fourScreen
  deriving DecidableEq, Repr

/-- The cartridge (R46). `sram` is empty unless `hasSaveRam`, `fourRam` unless the mirroring is four-screen. -/
structure Cartridge where
  mapper : Mapper
  prgSize : PrgSize
  prg : Memory 8
  chrKind : ChrKind
  chr : Memory 8
  mirroring : Mirroring
  hasSaveRam : Bool
  sram : Memory 8
  fourRam : Memory 8
  deriving DecidableEq, Repr

/-- How far the host's calls have come: nothing installed, a cartridge loaded, a hard reset done since (R407, R464). While
nothing is installed the field `cart` holds a blank that nothing reads. -/
inductive Boot where
  | noCartridge | loaded | ready
  deriving DecidableEq, Repr

/-- Where run_frame's loop (R401) stands: no run_frame in progress; at the top of an iteration; in CpuStep, with the dots
that iteration grants the PPU. The model's own field (log 7). -/
inductive Turn where
  | idle
  | grant
  | cpu (dots : Nat)
  deriving DecidableEq, Repr

/-- The whole machine. `draws` counts the free values drawn so far, the model's own field (log 5). -/
structure State where
  cpu : Cpu
  ram : Memory 8
  ppu : Ppu
  cart : Cartridge
  acc : Nat
  fault : Option Fault
  boot : Boot
  turn : Turn
  draws : Nat
  deriving DecidableEq, Repr

/-- One step's outcome. -/
abbrev Out := Host.Outcome State Fault Refusal

def State.setCpu (s : State) (c : Cpu) : State := { s with cpu := c }
def State.setRam (s : State) (m : Memory 8) : State := { s with ram := m }
def State.setPpu (s : State) (p : Ppu) : State := { s with ppu := p }
def State.setCart (s : State) (c : Cartridge) : State := { s with cart := c }
def State.setAcc (s : State) (n : Nat) : State := { s with acc := n }
def State.setFault (s : State) (f : Option Fault) : State := { s with fault := f }
def State.setBoot (s : State) (b : Boot) : State := { s with boot := b }
def State.setTurn (s : State) (t : Turn) : State := { s with turn := t }
def State.setDraws (s : State) (n : Nat) : State := { s with draws := n }

/-- The CPU after a hard reset with a reset vector of `pc` (R460). -/
def Cpu.reset (pc : Word) : Cpu :=
  { a := 0, x := 0, y := 0, sp := resetSp, pc := pc, p := resetP, pendI := none, carryI := none,
    nmiPending := false, cycles := 0, credit := 0 }

/-- The PPU after a hard reset, with the power-up contents it is given (R460). -/
def Ppu.reset (oam : Memory 8) (pal : Memory 6) (ciram : Memory 8) : Ppu :=
  { dot := 0, scanline := 0, odd := false, ctrl := 0, mask := 0, vblank := false, spr0hit := false,
    overflow := false, oamaddr := 0, v := 0, t := 0, x := 0, w := false, rdbuf := 0, oam := oam, sec := [],
    pal := pal, ciram := ciram, fb := [], frame := [] }

/-- The cartridge of `State.reset`: no program, 16 KB of PRG that reads $00, CHR-RAM, horizontal mirroring, no save
RAM. DESIGN CHOICE: the cartridge is a load argument (R10, R48), log 1. -/
def Cartridge.blank : Cartridge :=
  { mapper := .nrom, prgSize := .kb16, prg := [], chrKind := .ram, chr := [], mirroring := .horizontal,
    hasSaveRam := false, sram := [], fourRam := [] }

/-- The machine right after a hard reset (R460, R462), with the blank cartridge and every OPEN power-up content 0 (logs 1
to 3). PC is the reset vector's content, $0000 in the blank cartridge. -/
def State.reset : State :=
  { cpu := Cpu.reset 0x0000#16, ram := [], ppu := Ppu.reset [] [] [], cart := Cartridge.blank, acc := 0,
    fault := none, boot := .ready, turn := .idle, draws := 0 }

end Sys2Proof.Machine
end

