-- ==== Sys2Proof/Machine/Cartridge.lean ====
section
/-! DEFINITION. The mapper contract and its one variant, NROM (47_cartridge R370 to R379): the read and write entry points
of the PRG windows, CHR, nametables and save RAM, and the building of a cartridge from typed inputs. -/

namespace Sys2Proof.Machine

/-- `PRG_SIZE` in bytes (R10). -/
def PrgSize.bytes : PrgSize → Nat
  | .kb16 => 16384
  | .kb32 => 32768

/-- PRG read, both windows: `prg[(a - $8000) mod PRG_SIZE]` for the offset `a - $8000` (R372). -/
def Cartridge.readPrg (c : Cartridge) (off : Nat) : Byte :=
  match c.mapper with
  | .nrom => c.prg.read (off % c.prgSize.bytes)

/-- PRG write: ignored (R373). -/
def Cartridge.writePrg (c : Cartridge) (_off : Nat) (_v : Byte) : Cartridge :=
  match c.mapper with
  | .nrom => c

/-- CHR read at a PPU address below $2000 (R374). -/
def Cartridge.readChr (c : Cartridge) (a : Nat) : Byte :=
  match c.mapper with
  | .nrom => c.chr.read a

/-- CHR write: stored in CHR-RAM, ignored by CHR-ROM (R374). -/
def Cartridge.writeChr (c : Cartridge) (a : Nat) (v : Byte) : Cartridge :=
  match c.mapper, c.chrKind with
  | .nrom, .ram => { c with chr := c.chr.write a v }
  | .nrom, .rom => c

/-- Save RAM read at an offset from $6000: $00 when absent (R70, R375). -/
def Cartridge.readSram (c : Cartridge) (off : Nat) : Byte :=
  if c.hasSaveRam then c.sram.read off else 0x00#8

/-- Save RAM write: ignored when absent (R70, R375). -/
def Cartridge.writeSram (c : Cartridge) (off : Nat) (v : Byte) : Cartridge :=
  if c.hasSaveRam then { c with sram := c.sram.write off v } else c

/-- The cell a nametable address reaches: one of the PPU's CIRAM or one of the cartridge's four-screen RAM (R377, R378). -/
inductive NtCell where
  | ciram (i : Nat)
  | fourRam (i : Nat)
  deriving DecidableEq, Repr

/-- The logical page of quadrant `q` (R377's table). -/
def Mirroring.page : Mirroring → Nat → Nat
  | .horizontal, q => q / 2
  | .vertical, q => q % 2
  | .singleScreenA, _ => 0
  | .singleScreenB, _ => 1
  | .fourScreen, q => q

/-- The nametable translation of a PPU address in $2000-$3EFF (R377). -/
def ntCell (m : Mirroring) (a : PpuAddr) : NtCell :=
  let a' := (a.toNat - 0x2000) % 0x1000
  let i := 1024 * m.page (a' / 1024) + a' % 1024
  match m with
  | .fourScreen => .fourRam i
  | .horizontal | .vertical | .singleScreenA | .singleScreenB => .ciram i

/-- Nametable read (R378). -/
def readNametable (p : Ppu) (c : Cartridge) (a : PpuAddr) : Byte :=
  match ntCell c.mirroring a with
  | .ciram i => p.ciram.read i
  | .fourRam i => c.fourRam.read i

/-- Nametable write (R378). -/
def writeNametable (p : Ppu) (c : Cartridge) (a : PpuAddr) (v : Byte) : Ppu × Cartridge :=
  match ntCell c.mirroring a with
  | .ciram i => ({ p with ciram := p.ciram.write i v }, c)
  | .fourRam i => (p, { c with fourRam := c.fourRam.write i v })

/-- The typed inputs a cartridge is built from (R379); `chr = none` means 8 KB of CHR-RAM. -/
structure CartImage where
  mapperNumber : Nat
  prg : List Byte
  chr : Option (List Byte)
  mirroring : Mirroring
  hasSaveRam : Bool
  deriving DecidableEq, Repr

/-- Why a load installs no cartridge (R371, R379, R380, R436). -/
inductive LoadError where
  /-- FormatError (R380, R436). -/
  | format
  /-- UnsupportedMapperError (R371, R436). -/
  | unsupportedMapper (number : Nat)
  /-- A PRG or CHR size R379 refuses. DESIGN CHOICE: R379, D44 and U6 only say "refused", and R407 and R436 name no error
  for it; that it is a third error, of this name, is the model's (log 24). -/
  | unsupportedSize
  deriving DecidableEq, Repr

/-- `PRG_SIZE` of an image, if it is one NROM has (R379). -/
def CartImage.prgSize (i : CartImage) : Option PrgSize :=
  if i.prg.length = 16384 then some .kb16 else if i.prg.length = 32768 then some .kb32 else none

/-- CHR of 0 or 8 KB (R379). -/
def CartImage.chrSizeOk (i : CartImage) : Bool :=
  match i.chr with
  | none => true
  | some bs => bs.length == 8192

/-- The OPEN contents of the cartridge's own RAMs at load, SAVE_RAM_INIT and FOUR_SCREEN_INIT (R46, D17). Log 3. -/
structure LoadInit where
  sram : Memory 8
  fourRam : Memory 8
  deriving DecidableEq, Repr

/-- A cartridge from typed inputs, or the reason none is installed: mapper 0 is NROM (R371), the sizes are R379's. The
error for a refused size, `unsupportedSize`, and that the mapper is looked at first are the model's choices (logs 24 and 10). -/
def buildCartridge (init : LoadInit) (i : CartImage) : Except LoadError Cartridge :=
  if i.mapperNumber ≠ 0 then .error (.unsupportedMapper i.mapperNumber)
  else
    match i.prgSize, i.chrSizeOk with
    | some size, true =>
      .ok { mapper := .nrom, prgSize := size, prg := Memory.ofList i.prg,
            chrKind := match i.chr with | none => .ram | some _ => .rom,
            chr := match i.chr with | none => [] | some bs => Memory.ofList bs,
            mirroring := i.mirroring, hasSaveRam := i.hasSaveRam,
            sram := if i.hasSaveRam then init.sram else [],
            fourRam := if i.mirroring = .fourScreen then init.fourRam else [] }
    | _, _ => .error .unsupportedSize

end Sys2Proof.Machine
end

