-- ==== Sys2Proof/Machine/PpuPorts.lean ====
section
/-! DEFINITION. The PPU's address space, its eight ports and the loopy register operations (20_memory R75 to R77,
45_ppu_ports R300 to R312). -/

namespace Sys2Proof.Machine

/-! ### The PPU address space -/

/-- `PalIndex(a)`: 32 entries repeated, 16, 20, 24, 28 being 0, 4, 8, 12 (R77). -/
def palIndex (a : PpuAddr) : Nat :=
  let i := a.toNat % 32
  if i = 16 ∨ i = 20 ∨ i = 24 ∨ i = 28 then i - 16 else i

/-- `PpuRead(a)` (R75): no side effect. -/
def ppuRead (p : Ppu) (c : Cartridge) (a : PpuAddr) : Byte :=
  if a.toNat < 0x2000 then c.readChr a.toNat
  else if a.toNat < 0x3F00 then readNametable p c a
  else (p.pal.read (palIndex a)).setWidth 8

/-- `PpuWrite(a, v)` (R76): a palette write keeps the low 6 bits. -/
def ppuWrite (p : Ppu) (c : Cartridge) (a : PpuAddr) (v : Byte) : Ppu × Cartridge :=
  if a.toNat < 0x2000 then (p, c.writeChr a.toNat v)
  else if a.toNat < 0x3F00 then writeNametable p c a v
  else ({ p with pal := p.pal.write (palIndex a) (v.setWidth 6) }, c)

/-! ### Loopy register operations -/

/-- `IncX(r)` (R310). -/
def incX (r : Loopy) : Loopy :=
  let cx := r.extractLsb' 0 5
  if cx = 31#5 then putBit (putBits r 0 0#5) 10 (!r.getLsbD 10) else putBits r 0 (cx + 1#5)

/-- `IncY(r)` (R311). -/
def incY (r : Loopy) : Loopy :=
  let fy := r.extractLsb' 12 3
  let cy := r.extractLsb' 5 5
  if fy.toNat < 7 then putBits r 12 (fy + 1#3)
  else
    let r0 := putBits r 12 0#3
    if cy = 29#5 then putBit (putBits r0 5 0#5) 11 (!r.getLsbD 11)
    else if cy = 31#5 then putBits r0 5 0#5
    else putBits r0 5 (cy + 1#5)

/-- `CopyX`: the horizontal bits of `t` into `v` (R312). -/
def copyX (v t : Loopy) : Loopy :=
  putBits (putBits v 0 (t.extractLsb' 0 5)) 10 (t.extractLsb' 10 1)

/-- `CopyY`: the vertical bits of `t` into `v` (R312). -/
def copyY (v t : Loopy) : Loopy :=
  putBits (putBits v 5 (t.extractLsb' 5 5)) 11 (t.extractLsb' 11 4)

/-- `inc`: 32 if ctrl.INC = 1 else 1 (R308). -/
def Ppu.vramInc (p : Ppu) : Loopy := if p.ctrl.getLsbD 2 then 32#15 else 1#15

/-- The access address `v[13:0]` (R37). -/
def Ppu.vramAddr (p : Ppu) : PpuAddr := p.v.setWidth 14

/-! ### The ports -/

/-- The eight ports of R300. -/
inductive Port where
  | ctrl | mask | status | oamAddr | oamData | scroll | addr | data
  deriving DecidableEq, Repr

/-- The port `$2000 + k` (R64, R300). -/
def portOf (k : Nat) : Port :=
  match k with
  | 0 => .ctrl
  | 1 => .mask
  | 2 => .status
  | 3 => .oamAddr
  | 4 => .oamData
  | 5 => .scroll
  | 6 => .addr
  | _ => .data

/-- A draw of `PPU_OPEN_BUS` (R300, D35). -/
def drawOpenBus (s : State) : Byte × State := (Config.ppuOpenBus s.draws, s.setDraws (s.draws + 1))

/-- The byte of a status read: the three flags over the drawn bits 4:0 (R303). -/
def statusByte (p : Ppu) (draw : Byte) : Byte :=
  putBit (putBit (putBit draw 7 p.vblank) 6 p.spr0hit) 5 p.overflow

/-- `$2007` read: the byte, and the PPU with its buffer refilled and `v` moved on (R308). -/
def vramRead (p : Ppu) (c : Cartridge) : Byte × Ppu :=
  let a := p.vramAddr
  if a.toNat < 0x3F00 then
    (p.rdbuf, { p with rdbuf := ppuRead p c a, v := p.v + p.vramInc })
  else
    (ppuRead p c a, { p with rdbuf := ppuRead p c (a - 0x1000#14), v := p.v + p.vramInc })

/-- A CPU read of a port, with its side effects (R300 to R308). -/
def portRead (r : Port) (s : State) : Byte × State :=
  match r with
  | .ctrl | .mask | .oamAddr | .scroll | .addr => drawOpenBus s
  | .status =>
    let d := drawOpenBus s
    (statusByte s.ppu d.1, d.2.setPpu { s.ppu with vblank := false, w := false })
  | .oamData => (s.ppu.oam.read s.ppu.oamaddr.toNat, s)
  | .data =>
    let r := vramRead s.ppu s.cart
    (r.1, s.setPpu r.2)

/-- A CPU write of a port (R300 to R309). -/
def portWrite (r : Port) (d : Byte) (p : Ppu) (c : Cartridge) : Ppu × Cartridge :=
  match r with
  | .ctrl => ({ p with ctrl := d, t := putBits p.t 10 (d.extractLsb' 0 2) }, c)
  | .mask => ({ p with mask := d }, c)
  | .status => (p, c)
  | .oamAddr => ({ p with oamaddr := d }, c)
  | .oamData => ({ p with oam := p.oam.write p.oamaddr.toNat d, oamaddr := p.oamaddr + 1#8 }, c)
  | .scroll =>
    if p.w = false then
      ({ p with t := putBits p.t 0 (d.extractLsb' 3 5), x := d.extractLsb' 0 3, w := true }, c)
    else
      ({ p with t := putBits (putBits p.t 12 (d.extractLsb' 0 3)) 5 (d.extractLsb' 3 5), w := false }, c)
  | .addr =>
    if p.w = false then
      ({ p with t := putBit (putBits p.t 8 (d.extractLsb' 0 6)) 14 false, w := true }, c)
    else
      let t := putBits p.t 0 d
      ({ p with t := t, v := t, w := false }, c)
  | .data =>
    let r := ppuWrite p c p.vramAddr d
    ({ r.1 with v := p.v + p.vramInc }, r.2)

end Sys2Proof.Machine
end

