-- ==== Sys2Proof/Machine/Ops.lean ====
section
/-! DEFINITION. The named operations over memory and registers: the CPU bus with its address decoder (20_memory R60 to
R72), the stack (10_state R25), the cost of a step (48_dispatcher R402), taking an interrupt and returning from one (43_control_transfer R197, R198;
60_exceptions R425), and the deferred Interrupt-disable slot (44_stack_flags_nop R205). -/

namespace Sys2Proof.Machine

/-! ### The CPU address decoder -/

/-- What a CPU address reaches (R60's table), with the index into the array behind it where there is one. -/
inductive Region where
  | ram (i : Nat)
  | port (r : Port)
  | audio
  | oamDma
  | audioStatus
  | input
  | expansion
  | saveRam (off : Nat)
  | prgLow (off : Nat)
  | prgHigh (off : Nat)
  deriving DecidableEq, Repr

/-- The address decoder of R60: total, one region for every 16-bit address. -/
def regionOf (a : Word) : Region :=
  let n := a.toNat
  if n < 0x2000 then .ram (n % 0x800)
  else if n < 0x4000 then .port (portOf (n % 8))
  else if n < 0x4014 then .audio
  else if n = 0x4014 then .oamDma
  else if n = 0x4015 then .audioStatus
  else if n < 0x4018 then .input
  else if n < 0x6000 then .expansion
  else if n < 0x8000 then .saveRam (n - 0x6000)
  else if n < 0xC000 then .prgLow (n - 0x8000)
  else .prgHigh (n - 0x8000)

/-- The byte stored behind an address, where reading it is a plain read of storage (R63, R69 to R71): none for the ports
and the audio and input registers. No side effect; not an access of the machine. -/
def peek (s : State) (a : Word) : Option Byte :=
  match regionOf a with
  | .ram i => some (s.ram.read i)
  | .expansion => some 0x00#8
  | .saveRam off => some (s.cart.readSram off)
  | .prgLow off | .prgHigh off => some (s.cart.readPrg off)
  | .port _ | .audio | .oamDma | .audioStatus | .input => none

/-- A draw of `IO_READ(a)` (R65 to R67, D13). -/
def drawIo (a : Word) (s : State) : Byte × State := (Config.ioRead s.draws a, s.setDraws (s.draws + 1))

/-- A draw of `INPUT_READ(a)` (R68, D13). -/
def drawInput (a : Word) (s : State) : Byte × State := (Config.inputRead s.draws a, s.setDraws (s.draws + 1))

/-- `MemRead(a, 1)` (R61): the byte and the state after the read's side effects (R73). -/
def memRead (a : Word) (s : State) : Byte × State :=
  match regionOf a with
  | .ram i => (s.ram.read i, s)
  | .port r => portRead r s
  | .audio | .oamDma | .audioStatus => drawIo a s
  | .input => drawInput a s
  | .expansion => (0x00#8, s)
  | .saveRam off => (s.cart.readSram off, s)
  | .prgLow off | .prgHigh off => (s.cart.readPrg off, s)

/-- The first `n` of the 256 byte copies of an OAM DMA from page `d` (R72), in order, each source byte read through the bus. -/
def dmaCopy (d : Byte) : Nat → State → State
  | 0, s => s
  | n + 1, s =>
    let s1 := dmaCopy d n s
    let r := memRead (wordOf (BitVec.ofNat 8 n) d) s1
    let p := r.2.ppu
    r.2.setPpu { p with oam := p.oam.write (p.oamaddr + BitVec.ofNat 8 n).toNat r.1 }

/-- The stall of an OAM DMA: 513 if `k` is even, 514 if odd (R72). -/
def dmaStall (k : Nat) : Nat := if k % 2 = 0 then 513 else 514

/-- OAM DMA from page `d`, by an instruction of full cost `c` (R72): the copy, then the stall charged to `credit` and
`cycles`. A host write has no instruction, so `c = 0` (log 13). -/
def oamDma (c : Nat) (d : Byte) (s : State) : State :=
  let stall := dmaStall (s.cpu.cycles + c)
  let s1 := dmaCopy d 256 s
  s1.setCpu { s1.cpu with credit := s1.cpu.credit - stall, cycles := s1.cpu.cycles + stall }

/-- `MemWrite(a, 1, v)` (R62) by an instruction of full cost `c` (the cost only matters to OAM DMA). Writes to the audio
and input registers go to their collaborators and change no state (R65, R67, R68). -/
def memWrite (c : Nat) (a : Word) (v : Byte) (s : State) : State :=
  match regionOf a with
  | .ram i => s.setRam (s.ram.write i v)
  | .port r =>
    let w := portWrite r v s.ppu s.cart
    (s.setPpu w.1).setCart w.2
  | .audio | .audioStatus | .input => s
  | .oamDma => oamDma c v s
  | .expansion => s
  | .saveRam off => s.setCart (s.cart.writeSram off v)
  | .prgLow off | .prgHigh off => s.setCart (s.cart.writePrg off v)

/-- `Read16(a)` (R13): the low byte at `a`, then the high byte at `a + 1` modulo 2^16. -/
def read16 (a : Word) (s : State) : Word × State :=
  let lo := memRead a s
  let hi := memRead (a + 1#16) lo.2
  (wordOf lo.1 hi.1, hi.2)

/-! ### The stack (R25) -/

/-- The stack address for SP = `sp` (R21). -/
def stackAddr (sp : Byte) : Word := 0x0100#16 + zext16 sp

/-- `Push(v)` (R25). Page $01 is work RAM, so the writing instruction's cost plays no part. -/
def push (v : Byte) (s : State) : State :=
  let s1 := memWrite 0 (stackAddr s.cpu.sp) v s
  s1.setCpu { s1.cpu with sp := s1.cpu.sp - 1#8 }

/-- `Pull()` (R25). -/
def pull (s : State) : Byte × State :=
  let s1 := s.setCpu { s.cpu with sp := s.cpu.sp + 1#8 }
  memRead (stackAddr s1.cpu.sp) s1

/-! ### The cost of a step -/

/-- `credit <- credit - c; cycles <- cycles + c` (R402). -/
def Cpu.charge (c : Cpu) (n : Nat) : Cpu := { c with credit := c.credit - n, cycles := c.cycles + n }

/-- The cost of a CPU step charged to the CPU (R402). -/
def State.charge (s : State) (n : Nat) : State := s.setCpu (s.cpu.charge n)

/-! ### Taking an interrupt and returning from one -/

/-- The entry shared by BRK (R198) and NMI (R425): push PC high byte, PC low byte and the status byte, set
Interrupt-disable directly, load PC from the vector. -/
def enterInterrupt (status : Byte) (vector : Word) (s : State) : State :=
  let s1 := push status (push (loByte s.cpu.pc) (push (hiByte s.cpu.pc) s))
  let s2 := s1.setCpu { s1.cpu with p := putBit s1.cpu.p 2 true }
  let v := read16 vector s2
  v.2.setCpu { v.2.cpu with pc := v.1 }

/-- A full byte written to P: B dropped, U forced (R24). -/
def storedP (b : Byte) : Byte := (b &&& 0xCF#8) ||| 0x20#8

/-- The return of RTI (R197): P pulled (I written directly), then PC, low byte first, without the +1 of RTS. -/
def returnFromInterrupt (s : State) : State :=
  let p := pull s
  let s1 := p.2.setCpu { p.2.cpu with p := storedP p.1 }
  let lo := pull s1
  let hi := pull lo.2
  hi.2.setCpu { hi.2.cpu with pc := wordOf lo.1 hi.1 }

/-- The NMI entry step (R425): the pending I resolved first, the latch cleared, the status pushed with B = 0 and U = 1. -/
def nmiEntry (s : State) : State :=
  let p := match s.cpu.pendI with
    | some v => putBit s.cpu.p 2 v
    | none => s.cpu.p
  let s1 := s.setCpu { s.cpu with p := p, pendI := none, nmiPending := false }
  (enterInterrupt ((p &&& 0xEF#8) ||| 0x20#8) nmiVector s1).charge nmiCost

/-! ### The deferred Interrupt-disable slot (R205) -/

/-- At the boundary: `carryI <- pendI; pendI <- none`. -/
def Cpu.takeSlot (c : Cpu) : Cpu := { c with carryI := c.pendI, pendI := none }

/-- Which instructions write I directly and supersede the carried value (R205). -/
def supersedesI : Instr → Bool
  | .brk | .rti => true
  | _ => false

/-- When the instruction completes: the carried value becomes visible, but for BRK and RTI; `carryI <- none`. -/
def Cpu.completeSlot (i : Instr) (c : Cpu) : Cpu :=
  match c.carryI with
  | some v => { c with p := if supersedesI i then c.p else putBit c.p 2 v, carryI := none }
  | none => c

end Sys2Proof.Machine
end

