-- ==== Sys2Proof/Machine/Operands.lean ====
section
/-! DEFINITION. Effective addresses and operand access of every addressing mode (30_encoding R105 to R113, R118, R119) and
the cost of a step that uses them (R116). -/

namespace Sys2Proof.Machine

/-- An effective address, whether its mode crossed a page, and the state after the pointer reads. -/
structure Ea where
  addr : Word
  crossed : Bool
  st : State
  deriving DecidableEq, Repr

/-- `base + index`, and whether it leaves base's page (R109, R111). -/
def indexed (base : Word) (index : Byte) (s : State) : Ea :=
  let ea := base + zext16 index
  { addr := ea, crossed := hiByte base != hiByte ea, st := s }

/-- The pointer in page zero at `n`: the low byte read first, the high byte's address wrapping in the page (R110, R111). -/
def zeroPagePointer (n : Byte) (s : State) : Word × State :=
  let lo := memRead (zext16 n) s
  let hi := memRead (zext16 (n + 1#8)) lo.2
  (wordOf lo.1 hi.1, hi.2)

/-- The effective address of a memory operand (R106 to R111). -/
def effAddr (m : MemOperand) (s : State) : Ea :=
  match m with
  | .zp n => ⟨zext16 n, false, s⟩
  | .zpX n => ⟨zext16 (n + s.cpu.x), false, s⟩
  | .zpY n => ⟨zext16 (n + s.cpu.y), false, s⟩
  | .abs w => ⟨w, false, s⟩
  | .absX w => indexed w s.cpu.x s
  | .absY w => indexed w s.cpu.y s
  | .indX n =>
    let p := zeroPagePointer (n + s.cpu.x) s
    ⟨p.1, false, p.2⟩
  | .indY n =>
    let p := zeroPagePointer n s
    indexed p.1 s.cpu.y p.2

/-- An operand's value, whether its mode crossed a page, and the state after the reads. -/
structure Source where
  value : Byte
  crossed : Bool
  st : State
  deriving DecidableEq, Repr

/-- `Src(mode)` (R118): the immediate byte, or one read of the effective address after the pointer reads. -/
def src (d : DataOperand) (s : State) : Source :=
  match d with
  | .imm n => ⟨n, false, s⟩
  | .mem m =>
    let e := effAddr m s
    let r := memRead e.addr e.st
    ⟨r.1, e.crossed, r.2⟩

/-- The target of a JMP absolute-indirect: the high byte comes from the pointer's own page (R113, R194). -/
def jumpPointer (w : Word) (s : State) : Word × State :=
  let lo := memRead w s
  let hi := memRead (wordOf (loByte w + 1#8) (hiByte w)) lo.2
  (wordOf lo.1 hi.1, hi.2)

/-- `base + page` (R116): the crossing costs a cycle where the row has a page-cross penalty. -/
def pageCost (base : Nat) (penalty crossed : Bool) : Nat := if penalty && crossed then base + 1 else base

/-- A reading instruction: `Src(mode)`, then its effect on the CPU registers, then its cost. -/
def readInstr (u : Byte → Cpu → Cpu) (d : DataOperand) (base : Nat) (penalty : Bool) (s : State) : Out :=
  let r := src d s
  .next ((r.st.setCpu (u r.value r.st.cpu)).charge (pageCost base penalty r.crossed))

/-- A storing instruction: `Dst(mode, v)` (R118), one write and no read of the effective address; its cost is fixed. -/
def storeInstr (v : Byte) (m : MemOperand) (base : Nat) (s : State) : Out :=
  let e := effAddr m s
  .next ((memWrite base e.addr v e.st).charge base)

/-- `Modify(mode, f)` in memory (R119): one read and one write of the same address. `f` gives, for the old P and the old
byte, the new byte and the new P. -/
def modifyMem (f : Byte → Byte → Byte × Byte) (m : MemOperand) (base : Nat) (s : State) : Out :=
  let e := effAddr m s
  let r := memRead e.addr e.st
  let o := f r.2.cpu.p r.1
  let s1 := memWrite base e.addr o.1 r.2
  .next ((s1.setCpu { s1.cpu with p := o.2 }).charge base)

/-- `Modify(mode, f)` of the accumulator (R104, R119). -/
def modifyAcc (f : Byte → Byte → Byte × Byte) (base : Nat) (s : State) : Out :=
  let o := f s.cpu.p s.cpu.a
  .next ((s.setCpu { s.cpu with a := o.1, p := o.2 }).charge base)

/-- An implied instruction that only works on the CPU registers (R103). -/
def impliedInstr (u : Cpu → Cpu) (base : Nat) (s : State) : Out :=
  .next ((s.setCpu (u s.cpu)).charge base)

/-- The target of a branch with offset `n`, PC being the address of the next instruction (R112). -/
def branchTarget (pc : Word) (n : Byte) : Word := pc + sext16 n

/-- A conditional branch (R185): base 2; taken, 1 more to the next instruction's page and 2 more to another. -/
def branchInstr (taken : Bool) (n : Byte) (base : Nat) (s : State) : Out :=
  let t := branchTarget s.cpu.pc n
  if taken then
    .next ((s.setCpu { s.cpu with pc := t }).charge (base + if hiByte s.cpu.pc = hiByte t then 1 else 2))
  else .next (s.charge base)

end Sys2Proof.Machine
end

