-- ==== Sys2Proof/Machine/Flags.lean ====
section
/-! DEFINITION. Every flag computation, as functions of the status byte P (10_state R23, R24; 41_arith_logic R151 to R153,
R160; 42_shift_rotate R175 to R179). -/

namespace Sys2Proof.Machine

/-- The flags of P by bit number (R23). -/
def flagC (p : Byte) : Bool := p.getLsbD 0
def flagZ (p : Byte) : Bool := p.getLsbD 1
def flagI (p : Byte) : Bool := p.getLsbD 2
def flagD (p : Byte) : Bool := p.getLsbD 3
def flagV (p : Byte) : Bool := p.getLsbD 6
def flagN (p : Byte) : Bool := p.getLsbD 7

def setC (b : Bool) (p : Byte) : Byte := putBit p 0 b
def setZ (b : Bool) (p : Byte) : Byte := putBit p 1 b
def setI (b : Bool) (p : Byte) : Byte := putBit p 2 b
def setD (b : Bool) (p : Byte) : Byte := putBit p 3 b
def setV (b : Bool) (p : Byte) : Byte := putBit p 6 b
def setN (b : Bool) (p : Byte) : Byte := putBit p 7 b

/-- `SetZN(r)` (R13): Z <- (r = 0), N <- r[7]. -/
def setZN (r p : Byte) : Byte := setN (r.getLsbD 7) (setZ (r == 0#8) p)

/-- `Compare(r, m)` (R151): C <- r >= m, SetZN of the 8-bit difference. -/
def compare (r m p : Byte) : Byte := setZN (r - m) (setC (decide (m.toNat ≤ r.toNat)) p)

/-- The 9-bit sum of R152, `zext_9(A) + zext_9(m) + C`. -/
def sum9 (a m : Byte) (c : Bool) : BitVec 9 := a.setWidth 9 + m.setWidth 9 + (BitVec.ofBool c).setWidth 9

/-- ADC's result (R152). -/
def adcResult (a m : Byte) (c : Bool) : Byte := (sum9 a m c).setWidth 8

/-- ADC's flags (R152): C <- s[8], V <- ((A XOR r) AND (m XOR r))[7], SetZN. -/
def adcFlags (a m p : Byte) : Byte :=
  let c := flagC p
  let r := adcResult a m c
  setZN r (setV (((a ^^^ r) &&& (m ^^^ r)).getLsbD 7) (setC ((sum9 a m c).getLsbD 8) p))

/-- BIT's flags (R160): Z from A AND m, N and V from the memory byte. -/
def bitFlags (a m p : Byte) : Byte := setV (m.getLsbD 6) (setN (m.getLsbD 7) (setZ ((a &&& m) == 0#8) p))

/-- A shift or rotate with its result and carry (R175): the byte, and P with C and SetZN. -/
def shifted (r : Byte) (c : Bool) (p : Byte) : Byte × Byte := (r, setZN r (setC c p))

/-- ASL (R176). -/
def aslOp (p m : Byte) : Byte × Byte := shifted (m <<< 1) (m.getLsbD 7) p

/-- LSR (R177). -/
def lsrOp (p m : Byte) : Byte × Byte := shifted (m >>> 1) (m.getLsbD 0) p

/-- ROL (R178): the old C enters at bit 0. -/
def rolOp (p m : Byte) : Byte × Byte := shifted (putBit (m <<< 1) 0 (flagC p)) (m.getLsbD 7) p

/-- ROR (R179): the old C enters at bit 7. -/
def rorOp (p m : Byte) : Byte × Byte := shifted (putBit (m >>> 1) 7 (flagC p)) (m.getLsbD 0) p

/-- INC (R161): C and V unchanged. -/
def incOp (p m : Byte) : Byte × Byte := (m + 1#8, setZN (m + 1#8) p)

/-- DEC (R162): C and V unchanged. -/
def decOp (p m : Byte) : Byte × Byte := (m - 1#8, setZN (m - 1#8) p)

/-- The byte PHP and BRK push: P with B and U set (R207, R198, R426). -/
def pushedP (p : Byte) : Byte := p ||| 0x30#8

/-- PLP's immediate part (R209): N, V, D, Z, C from the pulled byte, U forced, B dropped, I kept. -/
def plpFlags (b p : Byte) : Byte := setI (flagI p) (storedP b)

end Sys2Proof.Machine
end

