-- ==== Sys2Proof/Machine/ArithLogic.lean ====
section
/-! DEFINITION. The meanings of 41_arith_logic R150 to R166: arithmetic, logic, compare, increment and decrement.
PC stands at the next sequential instruction when a meaning runs (30_encoding R101); each charges its own cost (R116). -/

namespace Sys2Proof.Machine

/-- A result written to A with SetZN. -/
def resultA (r : Byte) (c : Cpu) : Cpu := { c with a := r, p := setZN r c.p }

/-- ADC (R152): binary whatever D is (R150). -/
def adcA (m : Byte) (c : Cpu) : Cpu := { c with a := adcResult c.a m (flagC c.p), p := adcFlags c.a m c.p }

/-- SBC (R153): exactly ADC with m replaced by m XOR $FF. -/
def sbcA (m : Byte) (c : Cpu) : Cpu := adcA (m ^^^ 0xFF#8) c

/-- AND (R154). -/
def andA (m : Byte) (c : Cpu) : Cpu := resultA (c.a &&& m) c

/-- ORA (R155). -/
def oraA (m : Byte) (c : Cpu) : Cpu := resultA (c.a ||| m) c

/-- EOR (R156). -/
def eorA (m : Byte) (c : Cpu) : Cpu := resultA (c.a ^^^ m) c

/-- CMP (R157). -/
def cmpA (m : Byte) (c : Cpu) : Cpu := { c with p := compare c.a m c.p }

/-- CPX (R158). -/
def cmpX (m : Byte) (c : Cpu) : Cpu := { c with p := compare c.x m c.p }

/-- CPY (R159). -/
def cmpY (m : Byte) (c : Cpu) : Cpu := { c with p := compare c.y m c.p }

/-- BIT (R160). -/
def bitA (m : Byte) (c : Cpu) : Cpu := { c with p := bitFlags c.a m c.p }

/-- ADC ($nn,X) (R152). -/
def execAdcIndX (n : Byte) (s : State) : Out := readInstr adcA (.mem (.indX n)) 6 false s

/-- ADC $nn (R152). -/
def execAdcZp (n : Byte) (s : State) : Out := readInstr adcA (.mem (.zp n)) 3 false s

/-- ADC #$nn (R152). -/
def execAdcImm (n : Byte) (s : State) : Out := readInstr adcA (.imm n) 2 false s

/-- ADC $hhll (R152). -/
def execAdcAbs (w : Word) (s : State) : Out := readInstr adcA (.mem (.abs w)) 4 false s

/-- ADC ($nn),Y (R152). -/
def execAdcIndY (n : Byte) (s : State) : Out := readInstr adcA (.mem (.indY n)) 5 true s

/-- ADC $nn,X (R152). -/
def execAdcZpX (n : Byte) (s : State) : Out := readInstr adcA (.mem (.zpX n)) 4 false s

/-- ADC $hhll,Y (R152). -/
def execAdcAbsY (w : Word) (s : State) : Out := readInstr adcA (.mem (.absY w)) 4 true s

/-- ADC $hhll,X (R152). -/
def execAdcAbsX (w : Word) (s : State) : Out := readInstr adcA (.mem (.absX w)) 4 true s

/-- SBC ($nn,X) (R153). -/
def execSbcIndX (n : Byte) (s : State) : Out := readInstr sbcA (.mem (.indX n)) 6 false s

/-- SBC $nn (R153). -/
def execSbcZp (n : Byte) (s : State) : Out := readInstr sbcA (.mem (.zp n)) 3 false s

/-- SBC #$nn (R153). -/
def execSbcImm (n : Byte) (s : State) : Out := readInstr sbcA (.imm n) 2 false s

/-- SBC $hhll (R153). -/
def execSbcAbs (w : Word) (s : State) : Out := readInstr sbcA (.mem (.abs w)) 4 false s

/-- SBC ($nn),Y (R153). -/
def execSbcIndY (n : Byte) (s : State) : Out := readInstr sbcA (.mem (.indY n)) 5 true s

/-- SBC $nn,X (R153). -/
def execSbcZpX (n : Byte) (s : State) : Out := readInstr sbcA (.mem (.zpX n)) 4 false s

/-- SBC $hhll,Y (R153). -/
def execSbcAbsY (w : Word) (s : State) : Out := readInstr sbcA (.mem (.absY w)) 4 true s

/-- SBC $hhll,X (R153). -/
def execSbcAbsX (w : Word) (s : State) : Out := readInstr sbcA (.mem (.absX w)) 4 true s

/-- AND ($nn,X) (R154). -/
def execAndIndX (n : Byte) (s : State) : Out := readInstr andA (.mem (.indX n)) 6 false s

/-- AND $nn (R154). -/
def execAndZp (n : Byte) (s : State) : Out := readInstr andA (.mem (.zp n)) 3 false s

/-- AND #$nn (R154). -/
def execAndImm (n : Byte) (s : State) : Out := readInstr andA (.imm n) 2 false s

/-- AND $hhll (R154). -/
def execAndAbs (w : Word) (s : State) : Out := readInstr andA (.mem (.abs w)) 4 false s

/-- AND ($nn),Y (R154). -/
def execAndIndY (n : Byte) (s : State) : Out := readInstr andA (.mem (.indY n)) 5 true s

/-- AND $nn,X (R154). -/
def execAndZpX (n : Byte) (s : State) : Out := readInstr andA (.mem (.zpX n)) 4 false s

/-- AND $hhll,Y (R154). -/
def execAndAbsY (w : Word) (s : State) : Out := readInstr andA (.mem (.absY w)) 4 true s

/-- AND $hhll,X (R154). -/
def execAndAbsX (w : Word) (s : State) : Out := readInstr andA (.mem (.absX w)) 4 true s

/-- ORA ($nn,X) (R155). -/
def execOraIndX (n : Byte) (s : State) : Out := readInstr oraA (.mem (.indX n)) 6 false s

/-- ORA $nn (R155). -/
def execOraZp (n : Byte) (s : State) : Out := readInstr oraA (.mem (.zp n)) 3 false s

/-- ORA #$nn (R155). -/
def execOraImm (n : Byte) (s : State) : Out := readInstr oraA (.imm n) 2 false s

/-- ORA $hhll (R155). -/
def execOraAbs (w : Word) (s : State) : Out := readInstr oraA (.mem (.abs w)) 4 false s

/-- ORA ($nn),Y (R155). -/
def execOraIndY (n : Byte) (s : State) : Out := readInstr oraA (.mem (.indY n)) 5 true s

/-- ORA $nn,X (R155). -/
def execOraZpX (n : Byte) (s : State) : Out := readInstr oraA (.mem (.zpX n)) 4 false s

/-- ORA $hhll,Y (R155). -/
def execOraAbsY (w : Word) (s : State) : Out := readInstr oraA (.mem (.absY w)) 4 true s

/-- ORA $hhll,X (R155). -/
def execOraAbsX (w : Word) (s : State) : Out := readInstr oraA (.mem (.absX w)) 4 true s

/-- EOR ($nn,X) (R156). -/
def execEorIndX (n : Byte) (s : State) : Out := readInstr eorA (.mem (.indX n)) 6 false s

/-- EOR $nn (R156). -/
def execEorZp (n : Byte) (s : State) : Out := readInstr eorA (.mem (.zp n)) 3 false s

/-- EOR #$nn (R156). -/
def execEorImm (n : Byte) (s : State) : Out := readInstr eorA (.imm n) 2 false s

/-- EOR $hhll (R156). -/
def execEorAbs (w : Word) (s : State) : Out := readInstr eorA (.mem (.abs w)) 4 false s

/-- EOR ($nn),Y (R156). -/
def execEorIndY (n : Byte) (s : State) : Out := readInstr eorA (.mem (.indY n)) 5 true s

/-- EOR $nn,X (R156). -/
def execEorZpX (n : Byte) (s : State) : Out := readInstr eorA (.mem (.zpX n)) 4 false s

/-- EOR $hhll,Y (R156). -/
def execEorAbsY (w : Word) (s : State) : Out := readInstr eorA (.mem (.absY w)) 4 true s

/-- EOR $hhll,X (R156). -/
def execEorAbsX (w : Word) (s : State) : Out := readInstr eorA (.mem (.absX w)) 4 true s

/-- CMP ($nn,X) (R157). -/
def execCmpIndX (n : Byte) (s : State) : Out := readInstr cmpA (.mem (.indX n)) 6 false s

/-- CMP $nn (R157). -/
def execCmpZp (n : Byte) (s : State) : Out := readInstr cmpA (.mem (.zp n)) 3 false s

/-- CMP #$nn (R157). -/
def execCmpImm (n : Byte) (s : State) : Out := readInstr cmpA (.imm n) 2 false s

/-- CMP $hhll (R157). -/
def execCmpAbs (w : Word) (s : State) : Out := readInstr cmpA (.mem (.abs w)) 4 false s

/-- CMP ($nn),Y (R157). -/
def execCmpIndY (n : Byte) (s : State) : Out := readInstr cmpA (.mem (.indY n)) 5 true s

/-- CMP $nn,X (R157). -/
def execCmpZpX (n : Byte) (s : State) : Out := readInstr cmpA (.mem (.zpX n)) 4 false s

/-- CMP $hhll,Y (R157). -/
def execCmpAbsY (w : Word) (s : State) : Out := readInstr cmpA (.mem (.absY w)) 4 true s

/-- CMP $hhll,X (R157). -/
def execCmpAbsX (w : Word) (s : State) : Out := readInstr cmpA (.mem (.absX w)) 4 true s

/-- CPX #$nn (R158). -/
def execCpxImm (n : Byte) (s : State) : Out := readInstr cmpX (.imm n) 2 false s

/-- CPX $nn (R158). -/
def execCpxZp (n : Byte) (s : State) : Out := readInstr cmpX (.mem (.zp n)) 3 false s

/-- CPX $hhll (R158). -/
def execCpxAbs (w : Word) (s : State) : Out := readInstr cmpX (.mem (.abs w)) 4 false s

/-- CPY #$nn (R159). -/
def execCpyImm (n : Byte) (s : State) : Out := readInstr cmpY (.imm n) 2 false s

/-- CPY $nn (R159). -/
def execCpyZp (n : Byte) (s : State) : Out := readInstr cmpY (.mem (.zp n)) 3 false s

/-- CPY $hhll (R159). -/
def execCpyAbs (w : Word) (s : State) : Out := readInstr cmpY (.mem (.abs w)) 4 false s

/-- BIT $nn (R160). -/
def execBitZp (n : Byte) (s : State) : Out := readInstr bitA (.mem (.zp n)) 3 false s

/-- BIT $hhll (R160). -/
def execBitAbs (w : Word) (s : State) : Out := readInstr bitA (.mem (.abs w)) 4 false s

/-- INC $nn (R161). -/
def execIncZp (n : Byte) (s : State) : Out := modifyMem incOp (.zp n) 5 s

/-- INC $hhll (R161). -/
def execIncAbs (w : Word) (s : State) : Out := modifyMem incOp (.abs w) 6 s

/-- INC $nn,X (R161). -/
def execIncZpX (n : Byte) (s : State) : Out := modifyMem incOp (.zpX n) 6 s

/-- INC $hhll,X (R161). -/
def execIncAbsX (w : Word) (s : State) : Out := modifyMem incOp (.absX w) 7 s

/-- DEC $nn (R162). -/
def execDecZp (n : Byte) (s : State) : Out := modifyMem decOp (.zp n) 5 s

/-- DEC $hhll (R162). -/
def execDecAbs (w : Word) (s : State) : Out := modifyMem decOp (.abs w) 6 s

/-- DEC $nn,X (R162). -/
def execDecZpX (n : Byte) (s : State) : Out := modifyMem decOp (.zpX n) 6 s

/-- DEC $hhll,X (R162). -/
def execDecAbsX (w : Word) (s : State) : Out := modifyMem decOp (.absX w) 7 s

/-- INX (R163). -/
def execInx (s : State) : Out :=
  impliedInstr (fun c => { c with x := c.x + 1#8, p := setZN (c.x + 1#8) c.p }) 2 s

/-- INY (R164). -/
def execIny (s : State) : Out :=
  impliedInstr (fun c => { c with y := c.y + 1#8, p := setZN (c.y + 1#8) c.p }) 2 s

/-- DEX (R165). -/
def execDex (s : State) : Out :=
  impliedInstr (fun c => { c with x := c.x - 1#8, p := setZN (c.x - 1#8) c.p }) 2 s

/-- DEY (R166). -/
def execDey (s : State) : Out :=
  impliedInstr (fun c => { c with y := c.y - 1#8, p := setZN (c.y - 1#8) c.p }) 2 s

end Sys2Proof.Machine
end

