-- ==== Sys2Proof/Machine/ControlTransfer.lean ====
section
/-! DEFINITION. The meanings of 43_control_transfer R185 to R198: branches, jumps, calls, returns and break.
PC stands at the next sequential instruction when a meaning runs (30_encoding R101); each charges its own cost (R116). -/

namespace Sys2Proof.Machine

/-- BCC label (R186). -/
def execBcc (n : Byte) (s : State) : Out := branchInstr (!flagC s.cpu.p) n 2 s

/-- BCS label (R187). -/
def execBcs (n : Byte) (s : State) : Out := branchInstr (flagC s.cpu.p) n 2 s

/-- BEQ label (R188). -/
def execBeq (n : Byte) (s : State) : Out := branchInstr (flagZ s.cpu.p) n 2 s

/-- BMI label (R189). -/
def execBmi (n : Byte) (s : State) : Out := branchInstr (flagN s.cpu.p) n 2 s

/-- BNE label (R190). -/
def execBne (n : Byte) (s : State) : Out := branchInstr (!flagZ s.cpu.p) n 2 s

/-- BPL label (R191). -/
def execBpl (n : Byte) (s : State) : Out := branchInstr (!flagN s.cpu.p) n 2 s

/-- BVC label (R192). -/
def execBvc (n : Byte) (s : State) : Out := branchInstr (!flagV s.cpu.p) n 2 s

/-- BVS label (R193). -/
def execBvs (n : Byte) (s : State) : Out := branchInstr (flagV s.cpu.p) n 2 s

/-- JMP $hhll (R194). -/
def execJmpAbs (w : Word) (s : State) : Out :=
  .next ((s.setCpu { s.cpu with pc := w }).charge 3)

/-- JMP absolute-indirect (R194, R113). -/
def execJmpInd (w : Word) (s : State) : Out :=
  let t := jumpPointer w s
  .next ((t.2.setCpu { t.2.cpu with pc := t.1 }).charge 5)

/-- JSR (R195): the pushed value is the address of the instruction's last byte. -/
def execJsr (w : Word) (s : State) : Out :=
  let ret := s.cpu.pc - 1#16
  let s1 := push (loByte ret) (push (hiByte ret) s)
  .next ((s1.setCpu { s1.cpu with pc := w }).charge 6)

/-- RTS (R196). -/
def execRts (s : State) : Out :=
  let lo := pull s
  let hi := pull lo.2
  .next ((hi.2.setCpu { hi.2.cpu with pc := wordOf lo.1 hi.1 + 1#16 }).charge 6)

/-- RTI (R197). -/
def execRti (s : State) : Out :=
  .next ((returnFromInterrupt s).charge 6)

/-- BRK (R198): PC past the signature byte (not read), then the break entry with B and U set in the pushed byte. -/
def execBrk (s : State) : Out :=
  let s1 := s.setCpu { s.cpu with pc := s.cpu.pc + 1#16 }
  .next ((enterInterrupt (pushedP s.cpu.p) breakVector s1).charge 7)

end Sys2Proof.Machine
end

