-- ==== Sys2Proof/Machine/LoadStore.lean ====
section
/-! DEFINITION. The meanings of 40_load_store_transfer R130 to R141: loads, stores and register transfers.
PC stands at the next sequential instruction when a meaning runs (30_encoding R101); each charges its own cost (R116). -/

namespace Sys2Proof.Machine

/-- LDA (R130). -/
def loadA (m : Byte) (c : Cpu) : Cpu := { c with a := m, p := setZN m c.p }

/-- LDX (R131). -/
def loadX (m : Byte) (c : Cpu) : Cpu := { c with x := m, p := setZN m c.p }

/-- LDY (R132). -/
def loadY (m : Byte) (c : Cpu) : Cpu := { c with y := m, p := setZN m c.p }

/-- LDA ($nn,X) (R130). -/
def execLdaIndX (n : Byte) (s : State) : Out := readInstr loadA (.mem (.indX n)) 6 false s

/-- LDA $nn (R130). -/
def execLdaZp (n : Byte) (s : State) : Out := readInstr loadA (.mem (.zp n)) 3 false s

/-- LDA #$nn (R130). -/
def execLdaImm (n : Byte) (s : State) : Out := readInstr loadA (.imm n) 2 false s

/-- LDA $hhll (R130). -/
def execLdaAbs (w : Word) (s : State) : Out := readInstr loadA (.mem (.abs w)) 4 false s

/-- LDA ($nn),Y (R130). -/
def execLdaIndY (n : Byte) (s : State) : Out := readInstr loadA (.mem (.indY n)) 5 true s

/-- LDA $nn,X (R130). -/
def execLdaZpX (n : Byte) (s : State) : Out := readInstr loadA (.mem (.zpX n)) 4 false s

/-- LDA $hhll,Y (R130). -/
def execLdaAbsY (w : Word) (s : State) : Out := readInstr loadA (.mem (.absY w)) 4 true s

/-- LDA $hhll,X (R130). -/
def execLdaAbsX (w : Word) (s : State) : Out := readInstr loadA (.mem (.absX w)) 4 true s

/-- LDX #$nn (R131). -/
def execLdxImm (n : Byte) (s : State) : Out := readInstr loadX (.imm n) 2 false s

/-- LDX $nn (R131). -/
def execLdxZp (n : Byte) (s : State) : Out := readInstr loadX (.mem (.zp n)) 3 false s

/-- LDX $hhll (R131). -/
def execLdxAbs (w : Word) (s : State) : Out := readInstr loadX (.mem (.abs w)) 4 false s

/-- LDX $nn,Y (R131). -/
def execLdxZpY (n : Byte) (s : State) : Out := readInstr loadX (.mem (.zpY n)) 4 false s

/-- LDX $hhll,Y (R131). -/
def execLdxAbsY (w : Word) (s : State) : Out := readInstr loadX (.mem (.absY w)) 4 true s

/-- LDY #$nn (R132). -/
def execLdyImm (n : Byte) (s : State) : Out := readInstr loadY (.imm n) 2 false s

/-- LDY $nn (R132). -/
def execLdyZp (n : Byte) (s : State) : Out := readInstr loadY (.mem (.zp n)) 3 false s

/-- LDY $hhll (R132). -/
def execLdyAbs (w : Word) (s : State) : Out := readInstr loadY (.mem (.abs w)) 4 false s

/-- LDY $nn,X (R132). -/
def execLdyZpX (n : Byte) (s : State) : Out := readInstr loadY (.mem (.zpX n)) 4 false s

/-- LDY $hhll,X (R132). -/
def execLdyAbsX (w : Word) (s : State) : Out := readInstr loadY (.mem (.absX w)) 4 true s

/-- STA ($nn,X) (R133). -/
def execStaIndX (n : Byte) (s : State) : Out := storeInstr s.cpu.a (.indX n) 6 s

/-- STA $nn (R133). -/
def execStaZp (n : Byte) (s : State) : Out := storeInstr s.cpu.a (.zp n) 3 s

/-- STA $hhll (R133). -/
def execStaAbs (w : Word) (s : State) : Out := storeInstr s.cpu.a (.abs w) 4 s

/-- STA ($nn),Y (R133). -/
def execStaIndY (n : Byte) (s : State) : Out := storeInstr s.cpu.a (.indY n) 6 s

/-- STA $nn,X (R133). -/
def execStaZpX (n : Byte) (s : State) : Out := storeInstr s.cpu.a (.zpX n) 4 s

/-- STA $hhll,Y (R133). -/
def execStaAbsY (w : Word) (s : State) : Out := storeInstr s.cpu.a (.absY w) 5 s

/-- STA $hhll,X (R133). -/
def execStaAbsX (w : Word) (s : State) : Out := storeInstr s.cpu.a (.absX w) 5 s

/-- STX $nn (R134). -/
def execStxZp (n : Byte) (s : State) : Out := storeInstr s.cpu.x (.zp n) 3 s

/-- STX $hhll (R134). -/
def execStxAbs (w : Word) (s : State) : Out := storeInstr s.cpu.x (.abs w) 4 s

/-- STX $nn,Y (R134). -/
def execStxZpY (n : Byte) (s : State) : Out := storeInstr s.cpu.x (.zpY n) 4 s

/-- STY $nn (R135). -/
def execStyZp (n : Byte) (s : State) : Out := storeInstr s.cpu.y (.zp n) 3 s

/-- STY $hhll (R135). -/
def execStyAbs (w : Word) (s : State) : Out := storeInstr s.cpu.y (.abs w) 4 s

/-- STY $nn,X (R135). -/
def execStyZpX (n : Byte) (s : State) : Out := storeInstr s.cpu.y (.zpX n) 4 s

/-- TAX (R136). -/
def execTax (s : State) : Out :=
  impliedInstr (fun c => { c with x := c.a, p := setZN c.a c.p }) 2 s

/-- TAY (R137). -/
def execTay (s : State) : Out :=
  impliedInstr (fun c => { c with y := c.a, p := setZN c.a c.p }) 2 s

/-- TXA (R138). -/
def execTxa (s : State) : Out :=
  impliedInstr (fun c => { c with a := c.x, p := setZN c.x c.p }) 2 s

/-- TYA (R139). -/
def execTya (s : State) : Out :=
  impliedInstr (fun c => { c with a := c.y, p := setZN c.y c.p }) 2 s

/-- TSX (R140). -/
def execTsx (s : State) : Out :=
  impliedInstr (fun c => { c with x := c.sp, p := setZN c.sp c.p }) 2 s

/-- TXS (R141): no flag. -/
def execTxs (s : State) : Out :=
  impliedInstr (fun c => { c with sp := c.x }) 2 s

end Sys2Proof.Machine
end

