-- ==== Sys2Proof/Machine/ShiftRotate.lean ====
section
/-! DEFINITION. The meanings of 42_shift_rotate R175 to R179: shifts and rotates.
PC stands at the next sequential instruction when a meaning runs (30_encoding R101); each charges its own cost (R116). -/

namespace Sys2Proof.Machine

/-- ASL $nn (R176). -/
def execAslZp (n : Byte) (s : State) : Out := modifyMem aslOp (.zp n) 5 s

/-- ASL A (R176). -/
def execAslAcc (s : State) : Out := modifyAcc aslOp 2 s

/-- ASL $hhll (R176). -/
def execAslAbs (w : Word) (s : State) : Out := modifyMem aslOp (.abs w) 6 s

/-- ASL $nn,X (R176). -/
def execAslZpX (n : Byte) (s : State) : Out := modifyMem aslOp (.zpX n) 6 s

/-- ASL $hhll,X (R176). -/
def execAslAbsX (w : Word) (s : State) : Out := modifyMem aslOp (.absX w) 7 s

/-- LSR $nn (R177). -/
def execLsrZp (n : Byte) (s : State) : Out := modifyMem lsrOp (.zp n) 5 s

/-- LSR A (R177). -/
def execLsrAcc (s : State) : Out := modifyAcc lsrOp 2 s

/-- LSR $hhll (R177). -/
def execLsrAbs (w : Word) (s : State) : Out := modifyMem lsrOp (.abs w) 6 s

/-- LSR $nn,X (R177). -/
def execLsrZpX (n : Byte) (s : State) : Out := modifyMem lsrOp (.zpX n) 6 s

/-- LSR $hhll,X (R177). -/
def execLsrAbsX (w : Word) (s : State) : Out := modifyMem lsrOp (.absX w) 7 s

/-- ROL $nn (R178). -/
def execRolZp (n : Byte) (s : State) : Out := modifyMem rolOp (.zp n) 5 s

/-- ROL A (R178). -/
def execRolAcc (s : State) : Out := modifyAcc rolOp 2 s

/-- ROL $hhll (R178). -/
def execRolAbs (w : Word) (s : State) : Out := modifyMem rolOp (.abs w) 6 s

/-- ROL $nn,X (R178). -/
def execRolZpX (n : Byte) (s : State) : Out := modifyMem rolOp (.zpX n) 6 s

/-- ROL $hhll,X (R178). -/
def execRolAbsX (w : Word) (s : State) : Out := modifyMem rolOp (.absX w) 7 s

/-- ROR $nn (R179). -/
def execRorZp (n : Byte) (s : State) : Out := modifyMem rorOp (.zp n) 5 s

/-- ROR A (R179). -/
def execRorAcc (s : State) : Out := modifyAcc rorOp 2 s

/-- ROR $hhll (R179). -/
def execRorAbs (w : Word) (s : State) : Out := modifyMem rorOp (.abs w) 6 s

/-- ROR $nn,X (R179). -/
def execRorZpX (n : Byte) (s : State) : Out := modifyMem rorOp (.zpX n) 6 s

/-- ROR $hhll,X (R179). -/
def execRorAbsX (w : Word) (s : State) : Out := modifyMem rorOp (.absX w) 7 s

end Sys2Proof.Machine
end

