-- ==== Sys2Proof/Machine/StackFlags.lean ====
section
/-! DEFINITION. The meanings of 44_stack_flags_nop R205 to R217: stack, flag and no-operation instructions.
PC stands at the next sequential instruction when a meaning runs (30_encoding R101); each charges its own cost (R116). -/

namespace Sys2Proof.Machine

/-- PHA (R206). -/
def execPha (s : State) : Out :=
  .next ((push s.cpu.a s).charge 3)

/-- PHP (R207). -/
def execPhp (s : State) : Out :=
  .next ((push (pushedP s.cpu.p) s).charge 3)

/-- PLA (R208). -/
def execPla (s : State) : Out :=
  let r := pull s
  .next ((r.2.setCpu { r.2.cpu with a := r.1, p := setZN r.1 r.2.cpu.p }).charge 4)

/-- PLP (R209): I goes to the pending slot. -/
def execPlp (s : State) : Out :=
  let r := pull s
  .next ((r.2.setCpu { r.2.cpu with p := plpFlags r.1 r.2.cpu.p, pendI := some (flagI r.1) }).charge 4)

/-- CLC (R210). -/
def execClc (s : State) : Out :=
  impliedInstr (fun c => { c with p := setC false c.p }) 2 s

/-- CLD (R211). -/
def execCld (s : State) : Out :=
  impliedInstr (fun c => { c with p := setD false c.p }) 2 s

/-- CLI (R212): I is deferred (R205). -/
def execCli (s : State) : Out :=
  impliedInstr (fun c => { c with pendI := some false }) 2 s

/-- CLV (R213). -/
def execClv (s : State) : Out :=
  impliedInstr (fun c => { c with p := setV false c.p }) 2 s

/-- SEC (R214). -/
def execSec (s : State) : Out :=
  impliedInstr (fun c => { c with p := setC true c.p }) 2 s

/-- SED (R215). -/
def execSed (s : State) : Out :=
  impliedInstr (fun c => { c with p := setD true c.p }) 2 s

/-- SEI (R216): I is deferred (R205). -/
def execSei (s : State) : Out :=
  impliedInstr (fun c => { c with pendI := some true }) 2 s

/-- NOP (R217). -/
def execNop (s : State) : Out :=
  impliedInstr (fun c => c) 2 s

end Sys2Proof.Machine
end

