-- ==== Sys2Proof/Machine/Dispatch.lean ====
section
/-! DEFINITION. Which meaning each instruction has: one arm per constructor of `Instr`, in the order of the family files
40 to 44. -/

namespace Sys2Proof.Machine

def exec (i : Instr) (s : State) : Host.Outcome State Fault Refusal :=
  match i with
  | .ldaIndX n => Sys2Proof.Machine.execLdaIndX n s
  | .ldaZp n => Sys2Proof.Machine.execLdaZp n s
  | .ldaImm n => Sys2Proof.Machine.execLdaImm n s
  | .ldaAbs w => Sys2Proof.Machine.execLdaAbs w s
  | .ldaIndY n => Sys2Proof.Machine.execLdaIndY n s
  | .ldaZpX n => Sys2Proof.Machine.execLdaZpX n s
  | .ldaAbsY w => Sys2Proof.Machine.execLdaAbsY w s
  | .ldaAbsX w => Sys2Proof.Machine.execLdaAbsX w s
  | .ldxImm n => Sys2Proof.Machine.execLdxImm n s
  | .ldxZp n => Sys2Proof.Machine.execLdxZp n s
  | .ldxAbs w => Sys2Proof.Machine.execLdxAbs w s
  | .ldxZpY n => Sys2Proof.Machine.execLdxZpY n s
  | .ldxAbsY w => Sys2Proof.Machine.execLdxAbsY w s
  | .ldyImm n => Sys2Proof.Machine.execLdyImm n s
  | .ldyZp n => Sys2Proof.Machine.execLdyZp n s
  | .ldyAbs w => Sys2Proof.Machine.execLdyAbs w s
  | .ldyZpX n => Sys2Proof.Machine.execLdyZpX n s
  | .ldyAbsX w => Sys2Proof.Machine.execLdyAbsX w s
  | .staIndX n => Sys2Proof.Machine.execStaIndX n s
  | .staZp n => Sys2Proof.Machine.execStaZp n s
  | .staAbs w => Sys2Proof.Machine.execStaAbs w s
  | .staIndY n => Sys2Proof.Machine.execStaIndY n s
  | .staZpX n => Sys2Proof.Machine.execStaZpX n s
  | .staAbsY w => Sys2Proof.Machine.execStaAbsY w s
  | .staAbsX w => Sys2Proof.Machine.execStaAbsX w s
  | .stxZp n => Sys2Proof.Machine.execStxZp n s
  | .stxAbs w => Sys2Proof.Machine.execStxAbs w s
  | .stxZpY n => Sys2Proof.Machine.execStxZpY n s
  | .styZp n => Sys2Proof.Machine.execStyZp n s
  | .styAbs w => Sys2Proof.Machine.execStyAbs w s
  | .styZpX n => Sys2Proof.Machine.execStyZpX n s
  | .tax => Sys2Proof.Machine.execTax s
  | .tay => Sys2Proof.Machine.execTay s
  | .txa => Sys2Proof.Machine.execTxa s
  | .tya => Sys2Proof.Machine.execTya s
  | .tsx => Sys2Proof.Machine.execTsx s
  | .txs => Sys2Proof.Machine.execTxs s
  | .adcIndX n => Sys2Proof.Machine.execAdcIndX n s
  | .adcZp n => Sys2Proof.Machine.execAdcZp n s
  | .adcImm n => Sys2Proof.Machine.execAdcImm n s
  | .adcAbs w => Sys2Proof.Machine.execAdcAbs w s
  | .adcIndY n => Sys2Proof.Machine.execAdcIndY n s
  | .adcZpX n => Sys2Proof.Machine.execAdcZpX n s
  | .adcAbsY w => Sys2Proof.Machine.execAdcAbsY w s
  | .adcAbsX w => Sys2Proof.Machine.execAdcAbsX w s
  | .sbcIndX n => Sys2Proof.Machine.execSbcIndX n s
  | .sbcZp n => Sys2Proof.Machine.execSbcZp n s
  | .sbcImm n => Sys2Proof.Machine.execSbcImm n s
  | .sbcAbs w => Sys2Proof.Machine.execSbcAbs w s
  | .sbcIndY n => Sys2Proof.Machine.execSbcIndY n s
  | .sbcZpX n => Sys2Proof.Machine.execSbcZpX n s
  | .sbcAbsY w => Sys2Proof.Machine.execSbcAbsY w s
  | .sbcAbsX w => Sys2Proof.Machine.execSbcAbsX w s
  | .andIndX n => Sys2Proof.Machine.execAndIndX n s
  | .andZp n => Sys2Proof.Machine.execAndZp n s
  | .andImm n => Sys2Proof.Machine.execAndImm n s
  | .andAbs w => Sys2Proof.Machine.execAndAbs w s
  | .andIndY n => Sys2Proof.Machine.execAndIndY n s
  | .andZpX n => Sys2Proof.Machine.execAndZpX n s
  | .andAbsY w => Sys2Proof.Machine.execAndAbsY w s
  | .andAbsX w => Sys2Proof.Machine.execAndAbsX w s
  | .oraIndX n => Sys2Proof.Machine.execOraIndX n s
  | .oraZp n => Sys2Proof.Machine.execOraZp n s
  | .oraImm n => Sys2Proof.Machine.execOraImm n s
  | .oraAbs w => Sys2Proof.Machine.execOraAbs w s
  | .oraIndY n => Sys2Proof.Machine.execOraIndY n s
  | .oraZpX n => Sys2Proof.Machine.execOraZpX n s
  | .oraAbsY w => Sys2Proof.Machine.execOraAbsY w s
  | .oraAbsX w => Sys2Proof.Machine.execOraAbsX w s
  | .eorIndX n => Sys2Proof.Machine.execEorIndX n s
  | .eorZp n => Sys2Proof.Machine.execEorZp n s
  | .eorImm n => Sys2Proof.Machine.execEorImm n s
  | .eorAbs w => Sys2Proof.Machine.execEorAbs w s
  | .eorIndY n => Sys2Proof.Machine.execEorIndY n s
  | .eorZpX n => Sys2Proof.Machine.execEorZpX n s
  | .eorAbsY w => Sys2Proof.Machine.execEorAbsY w s
  | .eorAbsX w => Sys2Proof.Machine.execEorAbsX w s
  | .cmpIndX n => Sys2Proof.Machine.execCmpIndX n s
  | .cmpZp n => Sys2Proof.Machine.execCmpZp n s
  | .cmpImm n => Sys2Proof.Machine.execCmpImm n s
  | .cmpAbs w => Sys2Proof.Machine.execCmpAbs w s
  | .cmpIndY n => Sys2Proof.Machine.execCmpIndY n s
  | .cmpZpX n => Sys2Proof.Machine.execCmpZpX n s
  | .cmpAbsY w => Sys2Proof.Machine.execCmpAbsY w s
  | .cmpAbsX w => Sys2Proof.Machine.execCmpAbsX w s
  | .cpxImm n => Sys2Proof.Machine.execCpxImm n s
  | .cpxZp n => Sys2Proof.Machine.execCpxZp n s
  | .cpxAbs w => Sys2Proof.Machine.execCpxAbs w s
  | .cpyImm n => Sys2Proof.Machine.execCpyImm n s
  | .cpyZp n => Sys2Proof.Machine.execCpyZp n s
  | .cpyAbs w => Sys2Proof.Machine.execCpyAbs w s
  | .bitZp n => Sys2Proof.Machine.execBitZp n s
  | .bitAbs w => Sys2Proof.Machine.execBitAbs w s
  | .incZp n => Sys2Proof.Machine.execIncZp n s
  | .incAbs w => Sys2Proof.Machine.execIncAbs w s
  | .incZpX n => Sys2Proof.Machine.execIncZpX n s
  | .incAbsX w => Sys2Proof.Machine.execIncAbsX w s
  | .decZp n => Sys2Proof.Machine.execDecZp n s
  | .decAbs w => Sys2Proof.Machine.execDecAbs w s
  | .decZpX n => Sys2Proof.Machine.execDecZpX n s
  | .decAbsX w => Sys2Proof.Machine.execDecAbsX w s
  | .inx => Sys2Proof.Machine.execInx s
  | .iny => Sys2Proof.Machine.execIny s
  | .dex => Sys2Proof.Machine.execDex s
  | .dey => Sys2Proof.Machine.execDey s
  | .aslZp n => Sys2Proof.Machine.execAslZp n s
  | .aslAcc => Sys2Proof.Machine.execAslAcc s
  | .aslAbs w => Sys2Proof.Machine.execAslAbs w s
  | .aslZpX n => Sys2Proof.Machine.execAslZpX n s
  | .aslAbsX w => Sys2Proof.Machine.execAslAbsX w s
  | .lsrZp n => Sys2Proof.Machine.execLsrZp n s
  | .lsrAcc => Sys2Proof.Machine.execLsrAcc s
  | .lsrAbs w => Sys2Proof.Machine.execLsrAbs w s
  | .lsrZpX n => Sys2Proof.Machine.execLsrZpX n s
  | .lsrAbsX w => Sys2Proof.Machine.execLsrAbsX w s
  | .rolZp n => Sys2Proof.Machine.execRolZp n s
  | .rolAcc => Sys2Proof.Machine.execRolAcc s
  | .rolAbs w => Sys2Proof.Machine.execRolAbs w s
  | .rolZpX n => Sys2Proof.Machine.execRolZpX n s
  | .rolAbsX w => Sys2Proof.Machine.execRolAbsX w s
  | .rorZp n => Sys2Proof.Machine.execRorZp n s
  | .rorAcc => Sys2Proof.Machine.execRorAcc s
  | .rorAbs w => Sys2Proof.Machine.execRorAbs w s
  | .rorZpX n => Sys2Proof.Machine.execRorZpX n s
  | .rorAbsX w => Sys2Proof.Machine.execRorAbsX w s
  | .bcc n => Sys2Proof.Machine.execBcc n s
  | .bcs n => Sys2Proof.Machine.execBcs n s
  | .beq n => Sys2Proof.Machine.execBeq n s
  | .bmi n => Sys2Proof.Machine.execBmi n s
  | .bne n => Sys2Proof.Machine.execBne n s
  | .bpl n => Sys2Proof.Machine.execBpl n s
  | .bvc n => Sys2Proof.Machine.execBvc n s
  | .bvs n => Sys2Proof.Machine.execBvs n s
  | .jmpAbs w => Sys2Proof.Machine.execJmpAbs w s
  | .jmpInd w => Sys2Proof.Machine.execJmpInd w s
  | .jsr w => Sys2Proof.Machine.execJsr w s
  | .rts => Sys2Proof.Machine.execRts s
  | .rti => Sys2Proof.Machine.execRti s
  | .brk => Sys2Proof.Machine.execBrk s
  | .pha => Sys2Proof.Machine.execPha s
  | .php => Sys2Proof.Machine.execPhp s
  | .pla => Sys2Proof.Machine.execPla s
  | .plp => Sys2Proof.Machine.execPlp s
  | .clc => Sys2Proof.Machine.execClc s
  | .cld => Sys2Proof.Machine.execCld s
  | .cli => Sys2Proof.Machine.execCli s
  | .clv => Sys2Proof.Machine.execClv s
  | .sec => Sys2Proof.Machine.execSec s
  | .sed => Sys2Proof.Machine.execSed s
  | .sei => Sys2Proof.Machine.execSei s
  | .nop => Sys2Proof.Machine.execNop s

end Sys2Proof.Machine
end

