-- ==== Sys2Proof/Machine/Instruction.lean ====
section
/-! DEFINITION. One CPU step (48_dispatcher R402): fetching and decoding an instruction (30_encoding R101, R114), running it
with the deferred Interrupt-disable slot around it (44_stack_flags_nop R205), or entering the NMI (60_exceptions R425). -/

namespace Sys2Proof.Machine

/-- `b <- MemRead(PC, 1); PC <- PC + 1` (R101). -/
def fetchByte (s : State) : Byte × State :=
  let r := memRead s.cpu.pc s
  (r.1, r.2.setCpu { r.2.cpu with pc := r.2.cpu.pc + 1#16 })

/-- The operand bytes of an opcode's shape fetched, the first byte first; none for an invalid opcode (R101). -/
def fetchOperand (sh : Shape) (s : State) : Option (Instr × State) :=
  match sh with
  | .invalid => none
  | .bare i => some (i, s)
  | .byte f =>
    let n := fetchByte s
    some (f n.1, n.2)
  | .word f =>
    let ll := fetchByte s
    let hh := fetchByte ll.2
    some (f (wordOf ll.1 hh.1), hh.2)

/-- The slot taken at the boundary (R205). -/
def takeSlot (s : State) : State := s.setCpu s.cpu.takeSlot

/-- The instruction at PC and the state it runs in: opcode and operands fetched, the slot taken, PC at the next
sequential instruction; none when the opcode is invalid. The slot is taken after the opcode is known, since an invalid
opcode leaves it alone (R435, log 19). -/
def fetchInstr (s : State) : Option (Instr × State) :=
  let op := fetchByte s
  fetchOperand (shapeOf op.1) (takeSlot op.2)

/-- The state an invalid opcode leaves: the fault mark, and nothing else but the fetch's own side effects (R114, R435). -/
def invalidOpcode (s : State) : State :=
  let r := memRead s.cpu.pc s
  r.2.setFault (some (.invalidOpcode r.1 s.cpu.pc))

/-- What completes an instruction: the older pending I becomes visible (R205). -/
def complete (i : Instr) (s : State) : State := s.setCpu (s.cpu.completeSlot i)

/-- An instruction step (R101, R205). -/
def instruction (s : State) : Out :=
  match fetchInstr s with
  | none => .next (invalidOpcode s)
  | some (i, s1) =>
    match exec i s1 with
    | .next s2 => .next (complete i s2)
    | .fault f => .fault f
    | .refused r => .refused r

/-- A CPU step: a pending NMI is taken before the instruction at PC (R402, R430). -/
def cpuStep (s : State) : Out := if s.cpu.nmiPending then .next (nmiEntry s) else instruction s

end Sys2Proof.Machine
end

