-- ==== Sys2Proof/Machine/PpuFrame.lean ====
section
/-! DEFINITION. The PPU's dot and scanline machine: object evaluation, line rendering, the event schedule and the position
advance (46_ppu_frame R330 to R349). -/

namespace Sys2Proof.Machine

/-! ### Fields of the registers -/

/-- *Rendering is enabled*: mask.BG = 1 or mask.SP = 1 (R34). -/
def Ppu.rendering (p : Ppu) : Bool := p.mask.getLsbD 3 || p.mask.getLsbD 4

/-- The object height `h` (R340). -/
def Ppu.objectHeight (p : Ppu) : Nat := if p.ctrl.getLsbD 5 then 16 else 8

/-! ### Object evaluation (R340) -/

/-- The row of object `n` that line `line` shows, in integer arithmetic (R340). -/
def Ppu.objectRow (p : Ppu) (line n : Nat) : Int :=
  (line : Int) - (((p.oam.read (4 * n)).toNat : Int) + (sprYOfs : Int))

/-- Object `n` covers the line: `0 <= row < h` (R340). -/
def Ppu.covers (p : Ppu) (line n : Nat) : Bool :=
  decide (0 ≤ p.objectRow line n) && decide (p.objectRow line n < (p.objectHeight : Int))

/-- The evaluation loop over the objects still to look at, with the buffer so far: a ninth hit sets overflow and stops. -/
def evaluateLoop (p : Ppu) (line : Nat) : List Nat → List Nat → List Nat × Bool
  | [], sec => (sec, p.overflow)
  | n :: ns, sec =>
    if p.covers line n then
      if sec.length < 8 then evaluateLoop p line ns (sec ++ [n]) else (sec, true)
    else evaluateLoop p line ns sec

/-- `EvaluateObjects(L)` (R340). -/
def evaluateObjects (line : Nat) (p : Ppu) : Ppu :=
  let r := evaluateLoop p line (List.range 64) []
  { p with sec := r.1, overflow := r.2 }

/-! ### Line rendering (R341 to R346) -/

/-- `IncX` applied `k` times (R341). -/
def walkX : Nat → Loopy → Loopy
  | 0, r => r
  | k + 1, r => walkX k (incX r)

/-- A background pixel: whether it is opaque (after hiding and clipping), and its palette index (R341, R343). -/
structure BgPixel where
  solid : Bool
  index : Nat
  deriving DecidableEq, Repr

/-- The value 0..3 of bit `b` of the two planes at `addr` and `addr + 8` (R341, R342). -/
def planePixel (p : Ppu) (c : Cartridge) (addr : PpuAddr) (b : Nat) : Nat :=
  2 * bitNat ((ppuRead p c (addr + 8#14)).getLsbD b) + bitNat ((ppuRead p c addr).getLsbD b)

/-- A pattern table's base: $1000 or $0000. -/
def tableBase (high : Bool) : PpuAddr := if high then 0x1000#14 else 0x0000#14

/-- The background pixel of column `x` (R341). -/
def bgPixel (p : Ppu) (c : Cartridge) (x : Nat) : BgPixel :=
  let px := x + p.x.toNat
  let b := 7 - px % 8
  let r := walkX (px / 8) p.v
  let tile := ppuRead p c (0x2000#14 ||| (r.extractLsb' 0 12).setWidth 14)
  let attr := ppuRead p c (0x23C0#14 ||| ((r.extractLsb' 10 2).setWidth 14 <<< 10)
    ||| ((r.extractLsb' 7 3).setWidth 14 <<< 3) ||| (r.extractLsb' 2 3).setWidth 14)
  let sh := 4 * bitNat (r.getLsbD 6) + 2 * bitNat (r.getLsbD 1)
  let pb := (attr >>> sh).toNat % 4
  let addr := tableBase (p.ctrl.getLsbD 4) + (tile.setWidth 14 <<< 4) + (p.v.extractLsb' 12 3).setWidth 14
  let pix := planePixel p c addr b
  let solid := pix != 0 && p.mask.getLsbD 3 && (decide (8 ≤ x) || p.mask.getLsbD 1)
  { solid := solid, index := if solid then 4 * pb + pix else 0 }

/-- An object's pixel: its palette index, whether it is behind the background, its OAM number (R342). -/
structure ObjectPixel where
  index : Nat
  behind : Bool
  number : Nat
  deriving DecidableEq, Repr

/-- The pattern address of an object's row, 8x8 or 8x16 (R342). -/
def objectPattern (p : Ppu) (tile : Byte) (row : Nat) : PpuAddr :=
  if p.objectHeight = 8 then
    tableBase (p.ctrl.getLsbD 3) + (tile.setWidth 14 <<< 4) + BitVec.ofNat 14 row
  else
    let t : Byte := if 8 ≤ row then (tile &&& 0xFE#8) + 1#8 else tile &&& 0xFE#8
    let row' := if 8 ≤ row then row - 8 else row
    tableBase (tile.getLsbD 0) + (t.setWidth 14 <<< 4) + BitVec.ofNat 14 row'

/-- The pixel of object `n` in column `x` of a line, if the object reaches the column and the pixel is not 0 (R342). The
row is one evaluation found on this line, so it lies in `0 .. h-1` (log 18). -/
def objectPixelOf (p : Ppu) (c : Cartridge) (line x n : Nat) : Option ObjectPixel :=
  let left := (p.oam.read (4 * n + 3)).toNat
  if left ≤ x ∧ x < left + 8 then
    let a := p.oam.read (4 * n + 2)
    let row0 := (p.objectRow line n).toNat
    let row := if a.getLsbD 7 then p.objectHeight - 1 - row0 else row0
    let col := if a.getLsbD 6 then 7 - (x - left) else x - left
    let pix := planePixel p c (objectPattern p (p.oam.read (4 * n + 1)) row) (7 - col)
    if pix = 0 then none
    else some { index := 16 + 4 * (a.toNat % 4) + pix, behind := a.getLsbD 5, number := n }
  else none

/-- The object pixel of column `x`: the first in the secondary buffer, unless objects are hidden or clipped there (R342, R343). -/
def objectPixel (p : Ppu) (c : Cartridge) (line x : Nat) : Option ObjectPixel :=
  if p.mask.getLsbD 4 && (decide (8 ≤ x) || p.mask.getLsbD 2) then
    p.sec.findSome? (objectPixelOf p c line x)
  else none

/-- The branches of R344 that choose a colour. -/
inductive LayerBranch where
  | backdrop | background | object | objectInFront | objectBehind
  deriving DecidableEq, Repr

/-- The branches numbered in R344's order. -/
def LayerBranch.index : LayerBranch → Fin 5
  | .backdrop => 0
  | .background => 1
  | .object => 2
  | .objectInFront => 3
  | .objectBehind => 4

/-- The number 0 to 3 of the case a branch belongs to, in the reading `Config.layerCases` fixes (log 6). -/
def LayerBranch.caseNumber (b : LayerBranch) : BitVec 2 :=
  BitVec.ofNat 2 (min (Config.layerCases b.index).val 3)

/-- `LAYER_TAG` of a branch (R345). -/
def layerTag (b : LayerBranch) : BitVec 2 := Config.layerTag b.caseNumber

/-- The branch of R344 two pixels fall under. -/
def layerBranch (bg : BgPixel) (ob : Option ObjectPixel) : LayerBranch :=
  match bg.solid, ob with
  | false, none => .backdrop
  | true, none => .background
  | false, some _ => .object
  | true, some o => if o.behind then .objectBehind else .objectInFront

/-- The palette entry the branch chooses (R344). -/
def layerIndex (bg : BgPixel) (ob : Option ObjectPixel) : Nat :=
  match layerBranch bg ob, ob with
  | .backdrop, _ => 0
  | .background, _ | .objectBehind, _ => bg.index
  | .object, some o | .objectInFront, some o => o.index
  | .object, none | .objectInFront, none => 0

/-- The frame-buffer entry of column `x` (R344, R345). -/
def pixelAt (p : Ppu) (c : Cartridge) (line x : Nat) : Pixel :=
  let bg := bgPixel p c x
  let ob := objectPixel p c line x
  { colour := p.pal.read (layerIndex bg ob), layer := layerTag (layerBranch bg ob) }

/-- Column `x` shows an opaque pixel of object 0 over an opaque background pixel (R346). -/
def spriteZeroAt (p : Ppu) (c : Cartridge) (line x : Nat) : Bool :=
  (bgPixel p c x).solid &&
    match objectPixel p c line x with
    | some o => o.number == 0
    | none => false

/-- A line put into the frame buffer, the lines kept in rising order. -/
def writeLine : List (Nat × List Pixel) → Nat → List Pixel → List (Nat × List Pixel)
  | [], y, px => [(y, px)]
  | (k, q) :: fb, y, px =>
    if y < k then (y, px) :: (k, q) :: fb
    else if y = k then (y, px) :: fb
    else (k, q) :: writeLine fb y px

/-- The frame-buffer entry `fb[y][x]`, if the current frame has written line `y` (R44). -/
def Ppu.pixel (p : Ppu) (y x : Nat) : Option Pixel :=
  match p.fb.find? (fun l => l.1 == y) with
  | some l => l.2[x]?
  | none => none

/-- `RenderLine(L)`: 256 pixels, and the sprite-zero hit (R345, R346). -/
def renderLine (line : Nat) (c : Cartridge) (p : Ppu) : Ppu :=
  { p with
    fb := writeLine p.fb line ((List.range 256).map (pixelAt p c line))
    spr0hit := p.spr0hit || (List.range 256).any (spriteZeroAt p c line) }

/-! ### The event schedule and the position (R330 to R336, R348) -/

/-- The one-shot signals of a tick (R45). -/
structure TickSignals where
  vblankStart : Bool
  frameComplete : Bool
  deriving DecidableEq, Repr

/-- The events of a visible line's dot 256: evaluation (or an emptied buffer), rendering, IncY (R335, R340). -/
def lineEvent (line : Nat) (c : Cartridge) (p : Ppu) : Ppu :=
  if p.rendering then
    let p1 := renderLine line c (evaluateObjects line p)
    { p1 with v := incY p1.v }
  else renderLine line c { p with sec := [] }

/-- The events of R335's table at the current position. -/
def ppuEvents (c : Cartridge) (p : Ppu) : Ppu :=
  if p.scanline < 240 ∧ p.dot = 256 then lineEvent p.scanline c p
  else if (p.scanline < 240 ∨ p.scanline = 261) ∧ p.dot = 257 then
    if p.rendering then { p with v := copyX p.v p.t } else p
  else if p.scanline = 241 ∧ p.dot = 1 then { p with vblank := true }
  else if p.scanline = 261 ∧ p.dot = 1 then { p with vblank := false, spr0hit := false, overflow := false }
  else if p.scanline = 261 ∧ 280 ≤ p.dot ∧ p.dot ≤ 304 then
    if p.rendering then { p with v := copyY p.v p.t } else p
  else p

/-- The position advance, and whether it completes the frame (R331, R333). -/
def advancePosition (p : Ppu) : Ppu × Bool :=
  if p.dot + 1 = 341 then
    if p.scanline + 1 = 262 then
      ({ p with dot := if !p.odd then 1 else 0, scanline := 0, odd := !p.odd }, true)
    else ({ p with dot := 0, scanline := p.scanline + 1 }, false)
  else ({ p with dot := p.dot + 1 }, false)

/-- At frameComplete the sink is handed the frame buffer as it stands (R345, R403, D50); the frame that begins has written no
entry yet, so none can be read (R44). Log 4 and log 21. -/
def handOver (complete : Bool) (p : Ppu) : Ppu := if complete then { p with frame := p.fb, fb := [] } else p

/-- One tick of the PPU: the events of its position, then the advance (R330), which may complete the frame (R333). -/
def ppuTick (c : Cartridge) (p : Ppu) : Ppu × TickSignals :=
  let r := advancePosition (ppuEvents c p)
  (handOver r.2 r.1, { vblankStart := decide (p.scanline = 241 ∧ p.dot = 1), frameComplete := r.2 })

/-- One tick of the machine: VBlank start with NMIE set at that tick latches an NMI (R348, R404). The result says
whether the frame is complete. -/
def tick (s : State) : State × Bool :=
  let r := ppuTick s.cart s.ppu
  let s1 := s.setPpu r.1
  (if r.2.vblankStart && s.ppu.ctrl.getLsbD 7 then s1.setCpu { s1.cpu with nmiPending := true } else s1,
    r.2.frameComplete)

/-- `PpuStep(n)`: `n` ticks, and whether one of them completed a frame (R330, R333). -/
def ppuStep : Nat → State → State × Bool
  | 0, s => (s, false)
  | n + 1, s =>
    let t := tick s
    let r := ppuStep n t.1
    (r.1, t.2 || r.2)

end Sys2Proof.Machine
end

