-- ==== Sys2Proof/Machine/Schedule.lean ====
section
/-! DEFINITION. The dispatcher's loop (48_dispatcher R401 to R405) cut into steps: a grant, the CPU steps while credit
lasts, the PPU's dots. -/

namespace Sys2Proof.Machine

/-- The top of an iteration: SLICE master ticks accumulated, the CPU's budget added to its credit, the PPU's kept for
after the CPU, the accumulator zeroed (R401, R402). -/
def grant (s : State) : State :=
  let acc := s.acc + slice
  ((s.setAcc 0).setCpu { s.cpu with credit := s.cpu.credit + (acc / cpuDivisor : Nat) }).setTurn
    (.cpu (acc / ppuDivisor))

/-- The end of an iteration: PpuStep of the dots granted; a completed frame ends run_frame (R401, R403). -/
def ppuTurn (dots : Nat) (s : State) : State :=
  let r := ppuStep dots s
  r.1.setTurn (if r.2 then .idle else .grant)

/-- One step of run_frame's loop; when no run_frame is in progress the host calls the next one (log 11). -/
def dispatch (s : State) : Out :=
  match s.turn with
  | .idle | .grant => .next (grant s)
  | .cpu dots => if 0 < s.cpu.credit then cpuStep s else .next (ppuTurn dots s)

/-- The bytes of a table word stored where the next fetch reads them, if its region stores bytes (log 20). -/
def storeCode (a : Word) (v : Byte) (s : State) : State :=
  match regionOf a with
  | .ram i => s.setRam (s.ram.write i v)
  | .saveRam off => s.setCart { s.cart with hasSaveRam := true, sram := s.cart.sram.write off v }
  | .prgLow off | .prgHigh off =>
    s.setCart { s.cart with prg := s.cart.prg.write (off % s.cart.prgSize.bytes) v }
  | .port _ | .audio | .oamDma | .audioStatus | .input | .expansion => s

/-- The three bytes of a table word stored from PC on. -/
def storeWord (nbits w : Nat) (s : State) : State :=
  let v := w % 2 ^ nbits
  storeCode (s.cpu.pc + 2#16) (tableByte v 2)
    (storeCode (s.cpu.pc + 1#16) (tableByte v 1) (storeCode s.cpu.pc (tableByte v 0) s))

/-- The machine brought to the point where the very next step is an instruction step: a hard reset done, no fault, no NMI
pending, a positive credit inside a run_frame. -/
def readyToRun (s : State) : State :=
  let s1 := (s.setBoot .ready).setFault none
  let s2 := s1.setCpu { s1.cpu with nmiPending := false }
  let s3 := match s2.turn with
    | .cpu _ => s2
    | .idle | .grant => grant s2
  if 0 < s3.cpu.credit then s3 else s3.setCpu { s3.cpu with credit := 1 }

end Sys2Proof.Machine
end

