-- ==== Sys2Proof/Machine/Step.lean ====
section
/-! DEFINITION. One step of the machine: one stage of the dispatcher's loop (48_dispatcher R401), unless the machine is
faulted (R405, R435) or the host has not made it ready (R464). -/

namespace Sys2Proof.Machine

/-- One step of the machine (log 7). The fault mark is looked at before the host's calls: a faulted machine answers its fault
(R405) even where a run_frame's precondition fails, after a new load (R407). That order is the model's (log 25). -/
def step (s : State) : Host.Outcome State Fault Refusal :=
  match s.fault with
  | some f => .fault f
  | none =>
    match s.boot with
    | .noCartridge => .refused .noCartridge
    | .loaded => .refused .runBeforeReset
    | .ready => dispatch s

/-- The state with a table word stored where the next fetch reads and the machine ready to run it in its very next step
(logs 1 and 20). -/
def State.withFetchWord (s : State) (nbits w : Nat) : State := readyToRun (storeWord nbits w s)

end Sys2Proof.Machine
end

