-- ==== Sys2Proof/Machine/HostSurface.lean ====
section
/-! DEFINITION. The operations the host may call (48_dispatcher R407), their preconditions (R407, R464), the two resets
(70_reset_and_hazards R460, R461), the container (47_cartridge R380) and run_frame (R401, R406). -/

namespace Sys2Proof.Machine

/-! ### Resets -/

/-- The OPEN power-up contents RAM_INIT, OAM_INIT, PAL_INIT, NT_RAM_INIT (R31, R40, R42, R43, D17): arguments of a hard
reset. Log 2. -/
structure PowerUp where
  ram : Memory 8
  oam : Memory 8
  pal : Memory 6
  ciram : Memory 8
  deriving DecidableEq, Repr

/-- The effect of `hard_reset()` (R460): RAM, CPU, PPU, dispatcher; the cartridge and the fault mark are kept. -/
def hardResetState (i : PowerUp) (s : State) : State :=
  let pc := (read16 resetVector s).1
  ((((s.setRam i.ram).setCpu (Cpu.reset pc)).setPpu (Ppu.reset i.oam i.pal i.ciram)).setAcc 0).setTurn .idle

/-- The effect of `reset()` on the CPU (R461). -/
def Cpu.softReset (c : Cpu) (pc : Word) : Cpu :=
  { c with sp := c.sp - 3#8, p := setI true c.p, pendI := none, carryI := none, nmiPending := false,
           credit := 0, pc := pc }

/-- The effect of `reset()` on the PPU (R461, D19: everything else kept). `sec` is kept as R461 and decision D19 say, against
the word "empty" in R41 and R462 (log 17). -/
def Ppu.softReset (p : Ppu) : Ppu :=
  { p with ctrl := 0, mask := 0, x := 0, w := false, t := 0, rdbuf := 0 }

/-- The effect of `reset()` (R461). -/
def softResetState (s : State) : State :=
  let pc := (read16 resetVector s).1
  (((s.setCpu (s.cpu.softReset pc)).setPpu s.ppu.softReset).setAcc 0).setTurn .idle

/-! ### The container (R380) -/

/-- Byte `k` of a container. -/
def containerByte (bs : List Byte) (k : Nat) : Byte := bs[k]?.getD 0x00#8

/-- The length the header declares (R380). -/
def containerLength (bs : List Byte) : Nat :=
  16 + 512 * bitNat ((containerByte bs 6).getLsbD 2) + 16384 * (containerByte bs 4).toNat
    + 8192 * (containerByte bs 5).toNat

/-- The mirroring the header declares (R380: bit 3 four-screen, bit 0 vertical). -/
def containerMirroring (bs : List Byte) : Mirroring :=
  if (containerByte bs 6).getLsbD 3 then .fourScreen
  else if (containerByte bs 6).getLsbD 0 then .vertical else .horizontal

/-- The mapper number the header declares: byte 6 bits 7:4 low, byte 7 bits 7:4 high (R380). -/
def containerMapper (bs : List Byte) : Nat :=
  (containerByte bs 6).toNat / 16 + 16 * ((containerByte bs 7).toNat / 16)

/-- The typed inputs of a container, or FormatError for bad magic bytes or a length that is not the header's (R380). The
trainer is skipped. -/
def parseContainer (bs : List Byte) : Except LoadError CartImage :=
  if bs.take 4 = [0x4E#8, 0x45#8, 0x53#8, 0x1A#8] ∧ 16 ≤ bs.length ∧ bs.length = containerLength bs then
    let data := bs.drop (16 + 512 * bitNat ((containerByte bs 6).getLsbD 2))
    let prgLength := 16384 * (containerByte bs 4).toNat
    .ok { mapperNumber := containerMapper bs, prg := data.take prgLength,
          chr := if containerByte bs 5 = 0x00#8 then none else some (data.drop prgLength),
          mirroring := containerMirroring bs, hasSaveRam := (containerByte bs 6).getLsbD 1 }
  else .error .format

/-- `load(romBytes)` as a cartridge or an error (R371, R379, R380). -/
def loadCartridge (init : LoadInit) (bs : List Byte) : Except LoadError Cartridge :=
  match parseContainer bs with
  | .ok i => buildCartridge init i
  | .error e => .error e

/-! ### The host's calls -/

/-- A call may be made only when no run_frame is in progress (R407). -/
def State.betweenFrames (s : State) : Bool := s.turn == .idle || s.fault.isSome

/-- `load`: a cartridge installed, or its error with nothing changed (R407). -/
def hostLoad (init : LoadInit) (bs : List Byte) (s : State) : Except Refusal (Except LoadError State) :=
  if s.betweenFrames then
    match loadCartridge init bs with
    | .ok c => .ok (.ok ((s.setCart c).setBoot .loaded))
    | .error e => .ok (.error e)
  else .error .callInsideFrame

/-- A call whose precondition is that a cartridge is installed (R407). -/
def withCartridge {α : Type} (s : State) (r : α) : Except Refusal α :=
  if s.betweenFrames then
    match s.boot with
    | .noCartridge => .error .noCartridge
    | .loaded | .ready => .ok r
  else .error .callInsideFrame

/-- `hard_reset()` (R407, R460). -/
def hostHardReset (i : PowerUp) (s : State) : Except Refusal State :=
  withCartridge s ((hardResetState i s).setBoot .ready)

/-- `reset()` (R407, R461). -/
def hostReset (s : State) : Except Refusal State := withCartridge s (softResetState s)

/-- `read(a)`: a bus read with its side effects (R407). The status and audio-enable reads are `read($2002)` and
`read($4015)`. A faulted machine still answers (R405). -/
def hostRead (a : Word) (s : State) : Except Refusal (Byte × State) := withCartridge s (memRead a s)

/-- `write(a, v)`: a bus write with its side effects; a write to $4014 charges the stall (R407, log 13). -/
def hostWrite (a : Word) (v : Byte) (s : State) : Except Refusal State := withCartridge s (memWrite 0 a v s)

/-- What `run_frame()` returns. -/
inductive FrameResult where
  | frame (fb : List (Nat × List Pixel)) (s : State)
  | fault (f : Fault) (s : State)
  | refused (r : Refusal)
  | unfinished (s : State)
  deriving DecidableEq, Repr

/-- The loop of run_frame (R401): steps until the frame is complete or the CPU faults. -/
def runLoop : Nat → State → FrameResult
  | 0, s => .unfinished s
  | k + 1, s =>
    match step s with
    | .fault f => .fault f s
    | .refused r => .refused r
    | .next t => if t.fault = none ∧ t.turn = .idle then .frame t.ppu.frame t else runLoop k t

/-- Enough steps for any frame: three per iteration of at most 29,782, and the CPU steps the credit at hand allows (R406). -/
def frameFuel (s : State) : Nat := 90000 + s.cpu.credit.toNat

/-- `run_frame()` (R401, R405). The frame is the one handed over at its frameComplete tick (R403, D50). -/
def runFrame (s : State) : FrameResult :=
  if s.betweenFrames then runLoop (frameFuel s) s else .refused .callInsideFrame

end Sys2Proof.Machine
end

