-- ==== Sys2Proof/Safety.lean ====
section
/-! DEFINITION. What a well-formed state is and what counts as a safe run. Well-formedness is what 10_state says of every
state a run reaches: the reserved bits of P (R24), the bounds of the PPU's position (R32, R349) and of the object buffer
(R41), the sizes and canonical form of every storage array, and the dispatcher's fields between iterations (R401). -/

namespace Sys2Proof.Machine

/-- The CPU between steps: U reads 1, B is not held, no value is carried (R24, R205). -/
def Cpu.wf (c : Cpu) : Bool := c.p.getLsbD 5 && !c.p.getLsbD 4 && c.carryI == none

/-- The palette: 32 entries, of which 16, 20, 24 and 28 are cells of the background palettes and hold nothing of their own (R42). -/
def palWf (m : Memory 6) : Bool :=
  m.wf 32 && m.all fun e => e.1 != 16 && e.1 != 20 && e.1 != 24 && e.1 != 28

/-- How many lines the current frame has rendered: each at its dot 256 (R335, R44). -/
def Ppu.linesRendered (p : Ppu) : Nat :=
  if 240 ≤ p.scanline then 240 else if 256 < p.dot then p.scanline + 1 else p.scanline

/-- A buffer that holds exactly the first `n` lines, in order, of 256 pixels each (R44). -/
def linesWf (n : Nat) (fb : List (Nat × List Pixel)) : Bool :=
  fb.map Prod.fst == List.range n && fb.all fun l => l.2.length == 256

/-- The PPU: position and buffer in bounds, arrays canonical; the frame buffer holds the lines the current frame has rendered
and no other, the sink's frame all 240 or, before the first, none (R32, R40 to R44). -/
def Ppu.wf (p : Ppu) : Bool :=
  decide (p.dot ≤ 340) && decide (p.scanline ≤ 261) && decide (p.sec.length ≤ 8) &&
    p.sec.all (fun n => decide (n < 64)) && p.oam.wf 256 && palWf p.pal && p.ciram.wf 2048 &&
    linesWf p.linesRendered p.fb && (p.frame.isEmpty || linesWf 240 p.frame)

/-- The cartridge: arrays canonical and of their sizes, absent RAMs empty (R46). -/
def Cartridge.wf (c : Cartridge) : Bool :=
  c.prg.wf c.prgSize.bytes && c.chr.wf 8192 && c.sram.wf 8192 && c.fourRam.wf 4096 &&
    (c.hasSaveRam || c.sram.isEmpty) && (c.mirroring == .fourScreen || c.fourRam.isEmpty)

/-- The dispatcher between steps: the accumulator is zeroed by every grant, and a new iteration starts only when the CPU has
no credit left (R401, R402). -/
def State.dispatcherWf (s : State) : Bool :=
  s.acc == 0 &&
    match s.turn with
    | .idle | .grant => decide (s.cpu.credit ≤ 0)
    | .cpu _ => true

/-- A well-formed state. -/
def State.wf (s : State) : Bool :=
  s.cpu.wf && s.ram.wf 2048 && s.ppu.wf && s.cart.wf && s.dispatcherWf

/-- The machine can take a step: no fault mark, a hard reset done since the load (R405, R464). -/
def State.running (s : State) : Bool := s.fault == none && s.boot == .ready

/-- The machine is about to take a CPU step: inside CpuStep with credit left (R402). -/
def State.cpuDue (s : State) : Bool :=
  s.running && decide (0 < s.cpu.credit) &&
    match s.turn with
    | .cpu _ => true
    | .idle | .grant => false

/-- `t` is reached from `s` by steps of the machine. -/
inductive Reaches : State → State → Prop where
  | refl (s : State) : Reaches s s
  | step {s t u : State} (h : Reaches s t) (hs : step t = .next u) : Reaches s u

/-- A run from `s` is safe when no state it reaches carries the fault mark: no invalid opcode is ever fetched (R435). -/
def SafeFrom (s : State) : Prop := ∀ t, Reaches s t → t.fault = none

end Sys2Proof.Machine
end

