-- ==== Sys2Proof/Certificates/Slice0/Obligations.lean ====
section
/-! DEFINITION. The statements for the provers, each the Lean form of rules of the spec or of a consequence of them. The
formulas they compare the model with stand in `Sys2Proof.Claims`, written from the rules' own words with masks and with
arithmetic on natural numbers and integers, not with the model's flag functions. -/

open Sys2Proof Sys2Proof.Machine

namespace Sys2Proof.Claims

/-! ### Formulas of the rules -/

/-- The opcode of each mnemonic in each of its modes, from the "Encoding" line of its rule (R130 to R217). -/
def encodings : Mnemonic → List (Mode × Byte)
  | .lda =>
    [(.immediate, 0xA9), (.zeroPage, 0xA5), (.zeroPageX, 0xB5), (.absolute, 0xAD),
     (.absoluteX, 0xBD), (.absoluteY, 0xB9), (.indirectX, 0xA1), (.indirectY, 0xB1)]
  | .ldx =>
    [(.immediate, 0xA2), (.zeroPage, 0xA6), (.zeroPageY, 0xB6), (.absolute, 0xAE),
     (.absoluteY, 0xBE)]
  | .ldy =>
    [(.immediate, 0xA0), (.zeroPage, 0xA4), (.zeroPageX, 0xB4), (.absolute, 0xAC),
     (.absoluteX, 0xBC)]
  | .sta =>
    [(.zeroPage, 0x85), (.zeroPageX, 0x95), (.absolute, 0x8D), (.absoluteX, 0x9D),
     (.absoluteY, 0x99), (.indirectX, 0x81), (.indirectY, 0x91)]
  | .stx => [(.zeroPage, 0x86), (.zeroPageY, 0x96), (.absolute, 0x8E)]
  | .sty => [(.zeroPage, 0x84), (.zeroPageX, 0x94), (.absolute, 0x8C)]
  | .tax => [(.implied, 0xAA)]
  | .tay => [(.implied, 0xA8)]
  | .txa => [(.implied, 0x8A)]
  | .tya => [(.implied, 0x98)]
  | .tsx => [(.implied, 0xBA)]
  | .txs => [(.implied, 0x9A)]
  | .adc =>
    [(.immediate, 0x69), (.zeroPage, 0x65), (.zeroPageX, 0x75), (.absolute, 0x6D),
     (.absoluteX, 0x7D), (.absoluteY, 0x79), (.indirectX, 0x61), (.indirectY, 0x71)]
  | .sbc =>
    [(.immediate, 0xE9), (.zeroPage, 0xE5), (.zeroPageX, 0xF5), (.absolute, 0xED),
     (.absoluteX, 0xFD), (.absoluteY, 0xF9), (.indirectX, 0xE1), (.indirectY, 0xF1)]
  | .and =>
    [(.immediate, 0x29), (.zeroPage, 0x25), (.zeroPageX, 0x35), (.absolute, 0x2D),
     (.absoluteX, 0x3D), (.absoluteY, 0x39), (.indirectX, 0x21), (.indirectY, 0x31)]
  | .ora =>
    [(.immediate, 0x09), (.zeroPage, 0x05), (.zeroPageX, 0x15), (.absolute, 0x0D),
     (.absoluteX, 0x1D), (.absoluteY, 0x19), (.indirectX, 0x01), (.indirectY, 0x11)]
  | .eor =>
    [(.immediate, 0x49), (.zeroPage, 0x45), (.zeroPageX, 0x55), (.absolute, 0x4D),
     (.absoluteX, 0x5D), (.absoluteY, 0x59), (.indirectX, 0x41), (.indirectY, 0x51)]
  | .cmp =>
    [(.immediate, 0xC9), (.zeroPage, 0xC5), (.zeroPageX, 0xD5), (.absolute, 0xCD),
     (.absoluteX, 0xDD), (.absoluteY, 0xD9), (.indirectX, 0xC1), (.indirectY, 0xD1)]
  | .cpx => [(.immediate, 0xE0), (.zeroPage, 0xE4), (.absolute, 0xEC)]
  | .cpy => [(.immediate, 0xC0), (.zeroPage, 0xC4), (.absolute, 0xCC)]
  | .bit => [(.zeroPage, 0x24), (.absolute, 0x2C)]
  | .inc => [(.zeroPage, 0xE6), (.zeroPageX, 0xF6), (.absolute, 0xEE), (.absoluteX, 0xFE)]
  | .dec => [(.zeroPage, 0xC6), (.zeroPageX, 0xD6), (.absolute, 0xCE), (.absoluteX, 0xDE)]
  | .inx => [(.implied, 0xE8)]
  | .iny => [(.implied, 0xC8)]
  | .dex => [(.implied, 0xCA)]
  | .dey => [(.implied, 0x88)]
  | .asl =>
    [(.accumulator, 0x0A), (.zeroPage, 0x06), (.zeroPageX, 0x16), (.absolute, 0x0E),
     (.absoluteX, 0x1E)]
  | .lsr =>
    [(.accumulator, 0x4A), (.zeroPage, 0x46), (.zeroPageX, 0x56), (.absolute, 0x4E),
     (.absoluteX, 0x5E)]
  | .rol =>
    [(.accumulator, 0x2A), (.zeroPage, 0x26), (.zeroPageX, 0x36), (.absolute, 0x2E),
     (.absoluteX, 0x3E)]
  | .ror =>
    [(.accumulator, 0x6A), (.zeroPage, 0x66), (.zeroPageX, 0x76), (.absolute, 0x6E),
     (.absoluteX, 0x7E)]
  | .bcc => [(.relative, 0x90)]
  | .bcs => [(.relative, 0xB0)]
  | .beq => [(.relative, 0xF0)]
  | .bmi => [(.relative, 0x30)]
  | .bne => [(.relative, 0xD0)]
  | .bpl => [(.relative, 0x10)]
  | .bvc => [(.relative, 0x50)]
  | .bvs => [(.relative, 0x70)]
  | .jmp => [(.absolute, 0x4C), (.absoluteIndirect, 0x6C)]
  | .jsr => [(.absolute, 0x20)]
  | .rts => [(.implied, 0x60)]
  | .rti => [(.implied, 0x40)]
  | .brk => [(.implied, 0x00)]
  | .pha => [(.implied, 0x48)]
  | .php => [(.implied, 0x08)]
  | .pla => [(.implied, 0x68)]
  | .plp => [(.implied, 0x28)]
  | .clc => [(.implied, 0x18)]
  | .cld => [(.implied, 0xD8)]
  | .cli => [(.implied, 0x58)]
  | .clv => [(.implied, 0xB8)]
  | .sec => [(.implied, 0x38)]
  | .sed => [(.implied, 0xF8)]
  | .sei => [(.implied, 0x78)]
  | .nop => [(.implied, 0xEA)]

/-- The 105 invalid opcode bytes, as R114 lists them. -/
def invalidOpcodes : List Byte :=
  [0x02, 0x03, 0x04, 0x07, 0x0B, 0x0C, 0x0F, 0x12, 0x13, 0x14, 0x17, 0x1A, 0x1B, 0x1C, 0x1F]
    ++ [0x22, 0x23, 0x27, 0x2B, 0x2F, 0x32, 0x33, 0x34, 0x37, 0x3A, 0x3B, 0x3C, 0x3F, 0x42, 0x43]
    ++ [0x44, 0x47, 0x4B, 0x4F, 0x52, 0x53, 0x54, 0x57, 0x5A, 0x5B, 0x5C, 0x5F, 0x62, 0x63, 0x64]
    ++ [0x67, 0x6B, 0x6F, 0x72, 0x73, 0x74, 0x77, 0x7A, 0x7B, 0x7C, 0x7F, 0x80, 0x82, 0x83, 0x87]
    ++ [0x89, 0x8B, 0x8F, 0x92, 0x93, 0x97, 0x9B, 0x9C, 0x9E, 0x9F, 0xA3, 0xA7, 0xAB, 0xAF, 0xB2]
    ++ [0xB3, 0xB7, 0xBB, 0xBF, 0xC2, 0xC3, 0xC7, 0xCB, 0xCF, 0xD2, 0xD3, 0xD4, 0xD7, 0xDA, 0xDB]
    ++ [0xDC, 0xDF, 0xE2, 0xE3, 0xE7, 0xEB, 0xEF, 0xF2, 0xF3, 0xF4, 0xF7, 0xFA, 0xFB, 0xFC, 0xFF]

/-- The base cycle cost of each opcode, row by row as the opcode map of R115 prints it (0 where it prints no cell). -/
def baseCosts : List Nat :=
  [7, 6, 0, 0, 0, 3, 5, 0, 3, 2, 2, 0, 0, 4, 6, 0]
    ++ [2, 5, 0, 0, 0, 4, 6, 0, 2, 4, 0, 0, 0, 4, 7, 0]
    ++ [6, 6, 0, 0, 3, 3, 5, 0, 4, 2, 2, 0, 4, 4, 6, 0]
    ++ [2, 5, 0, 0, 0, 4, 6, 0, 2, 4, 0, 0, 0, 4, 7, 0]
    ++ [6, 6, 0, 0, 0, 3, 5, 0, 3, 2, 2, 0, 3, 4, 6, 0]
    ++ [2, 5, 0, 0, 0, 4, 6, 0, 2, 4, 0, 0, 0, 4, 7, 0]
    ++ [6, 6, 0, 0, 0, 3, 5, 0, 4, 2, 2, 0, 5, 4, 6, 0]
    ++ [2, 5, 0, 0, 0, 4, 6, 0, 2, 4, 0, 0, 0, 4, 7, 0]
    ++ [0, 6, 0, 0, 3, 3, 3, 0, 2, 0, 2, 0, 4, 4, 4, 0]
    ++ [2, 6, 0, 0, 4, 4, 4, 0, 2, 5, 2, 0, 0, 5, 0, 0]
    ++ [2, 6, 2, 0, 3, 3, 3, 0, 2, 2, 2, 0, 4, 4, 4, 0]
    ++ [2, 5, 0, 0, 4, 4, 4, 0, 2, 4, 2, 0, 4, 4, 4, 0]
    ++ [2, 6, 0, 0, 3, 3, 5, 0, 2, 2, 2, 0, 4, 4, 6, 0]
    ++ [2, 5, 0, 0, 0, 4, 6, 0, 2, 4, 0, 0, 0, 4, 7, 0]
    ++ [2, 6, 0, 0, 3, 3, 5, 0, 2, 2, 2, 0, 4, 4, 6, 0]
    ++ [2, 5, 0, 0, 0, 4, 6, 0, 2, 4, 0, 0, 0, 4, 7, 0]

/-- The opcodes the map of R115 marks `*`: 1 cycle more when indexing crosses a page. -/
def penaltyOpcodes : List Byte :=
  [0x11, 0x19, 0x1D, 0x31, 0x39, 0x3D, 0x51, 0x59, 0x5D, 0x71, 0x79, 0x7D]
    ++ [0xB1, 0xB9, 0xBC, 0xBD, 0xBE, 0xD1, 0xD9, 0xDD, 0xF1, 0xF9, 0xFD]

/-- The opcode and mode of an instruction are those of its rule's "Encoding" line, and its base cost and page-cross penalty
are those the opcode map prints in the opcode's cell (R115). -/
def encoded (i : Instr) : Prop :=
  (i.operand.mode, i.row.opcode) ∈ encodings i.mnemonic
    ∧ baseCosts[i.row.opcode.toNat]? = some i.row.baseCycles
    ∧ i.row.pagePenalty = decide (i.row.opcode ∈ penaltyOpcodes)

/-- P with Z and N set from a result, the rest kept (R13). -/
def pZN (r p : Byte) : Byte := (p &&& 0x7D#8) ||| (if r = 0#8 then 0x02#8 else 0x00#8) ||| (r &&& 0x80#8)

/-- P with C, Z and N set, the rest kept (R151, R175). -/
def pCZN (c : Bool) (r p : Byte) : Byte :=
  (p &&& 0x7C#8) ||| (if c then 0x01#8 else 0x00#8) ||| (if r = 0#8 then 0x02#8 else 0x00#8) ||| (r &&& 0x80#8)

/-- P with C, V, Z and N set, the rest kept (R152). -/
def pCVZN (c v : Bool) (r p : Byte) : Byte :=
  (p &&& 0x3C#8) ||| (if c then 0x01#8 else 0x00#8) ||| (if v then 0x40#8 else 0x00#8)
    ||| (if r = 0#8 then 0x02#8 else 0x00#8) ||| (r &&& 0x80#8)

/-- The carry of P as a number. -/
def carry (p : Byte) : Nat := p.toNat % 2

/-- A CPU that has paid for a step of `n` cycles (R402). -/
def paid (c : Cpu) (n : Nat) : Cpu := { c with cycles := c.cycles + n, credit := c.credit - n }

/-- The cost of a reading instruction: its row's base, and 1 more when its mode crosses a page and the row has the
penalty (R116). -/
def readCost (i : Instr) (d : DataOperand) (s : State) : Nat :=
  i.row.baseCycles + if i.row.pagePenalty && (src d s).crossed then 1 else 0

/-- `n` bytes fetched one after another: each a bus read at PC with its side effects, PC moved past it (R101, R61). -/
def fetches : Nat → State → List Byte × State
  | 0, s => ([], s)
  | n + 1, s =>
    let r := memRead s.cpu.pc s
    let rest := fetches n { r.2 with cpu := { r.2.cpu with pc := BitVec.ofNat 16 (s.cpu.pc.toNat + 1) } }
    (r.1 :: rest.1, rest.2)

/-- The state in which an instruction step ends: the carried I written unless the instruction is BRK or RTI (R205). -/
def completed (i : Instr) (pendI : Option Bool) (t : State) : State :=
  { t with cpu := { t.cpu with
      carryI := none
      p := match pendI with
        | some v =>
          if i.mnemonic = .brk ∨ i.mnemonic = .rti then t.cpu.p
          else (t.cpu.p &&& 0xFB#8) ||| (if v then 0x04#8 else 0x00#8)
        | none => t.cpu.p } }

/-- The port at $2000 plus 0 to 7, by its name in R300's table. -/
def portNamed : Nat → Port
  | 0 => .ctrl
  | 1 => .mask
  | 2 => .status
  | 3 => .oamAddr
  | 4 => .oamData
  | 5 => .scroll
  | 6 => .addr
  | _ => .data

/-- The condition each branch tests (R186 to R193). -/
def branchCondition (p : Byte) : Mnemonic → Option Bool
  | .bcc => some (!p.getLsbD 0)
  | .bcs => some (p.getLsbD 0)
  | .beq => some (p.getLsbD 1)
  | .bmi => some (p.getLsbD 7)
  | .bne => some (!p.getLsbD 1)
  | .bpl => some (!p.getLsbD 7)
  | .bvc => some (!p.getLsbD 6)
  | .bvs => some (p.getLsbD 6)
  | _ => none

/-- A branch's target: the next instruction's address plus the offset read as -128..127, modulo 2^16 (R112). -/
def branchTo (next : Word) (n : Byte) : Word := BitVec.ofInt 16 (next.toNat + n.toInt)

/-- The penalty of a taken branch (R185). -/
def branchPenalty (next target : Word) : Nat := if next.toNat / 256 = target.toNat / 256 then 1 else 2

/-- Register transfers and the counting of X and Y (R136 to R141, R163 to R166). -/
def registerEffect (c : Cpu) : Mnemonic → Option Cpu
  | .tax => some { c with x := c.a, p := pZN c.a c.p }
  | .tay => some { c with y := c.a, p := pZN c.a c.p }
  | .txa => some { c with a := c.x, p := pZN c.x c.p }
  | .tya => some { c with a := c.y, p := pZN c.y c.p }
  | .tsx => some { c with x := c.sp, p := pZN c.sp c.p }
  | .txs => some { c with sp := c.x }
  | .inx => some { c with x := BitVec.ofNat 8 (c.x.toNat + 1), p := pZN (BitVec.ofNat 8 (c.x.toNat + 1)) c.p }
  | .iny => some { c with y := BitVec.ofNat 8 (c.y.toNat + 1), p := pZN (BitVec.ofNat 8 (c.y.toNat + 1)) c.p }
  | .dex => some { c with x := BitVec.ofNat 8 (c.x.toNat + 255), p := pZN (BitVec.ofNat 8 (c.x.toNat + 255)) c.p }
  | .dey => some { c with y := BitVec.ofNat 8 (c.y.toNat + 255), p := pZN (BitVec.ofNat 8 (c.y.toNat + 255)) c.p }
  | _ => none

/-- The flag instructions and NOP (R210, R211, R213 to R215, R217). -/
def flagEffect (p : Byte) : Mnemonic → Option Byte
  | .clc => some (p &&& 0xFE#8)
  | .sec => some (p ||| 0x01#8)
  | .cld => some (p &&& 0xF7#8)
  | .sed => some (p ||| 0x08#8)
  | .clv => some (p &&& 0xBF#8)
  | .nop => some p
  | _ => none

/-- AND, ORA, EOR (R154 to R156). -/
def logicResult (a m : Byte) : Mnemonic → Option Byte
  | .and => some (a &&& m)
  | .ora => some (a ||| m)
  | .eor => some (a ^^^ m)
  | _ => none

/-- The register CMP, CPX, CPY compare (R157 to R159). -/
def comparedRegister (c : Cpu) : Mnemonic → Option Byte
  | .cmp => some c.a
  | .cpx => some c.x
  | .cpy => some c.y
  | _ => none

/-- Shifts and rotates: the result and the new carry, for the old byte and the old carry as numbers (R176 to R179). -/
def shiftEffect (m c : Nat) : Mnemonic → Option (Nat × Bool)
  | .asl => some (2 * m, decide (128 ≤ m))
  | .lsr => some (m / 2, decide (m % 2 = 1))
  | .rol => some (2 * m + c, decide (128 ≤ m))
  | .ror => some (m / 2 + 128 * c, decide (m % 2 = 1))
  | _ => none

/-- The register STA, STX, STY store (R133 to R135). -/
def storedRegister (c : Cpu) : Mnemonic → Option Byte
  | .sta => some c.a
  | .stx => some c.x
  | .sty => some c.y
  | _ => none

/-- Work RAM after `Push(v)` with SP = `sp` (R25). -/
def pushed (ram : Memory 8) (sp v : Byte) : Memory 8 := ram.write (0x100 + sp.toNat) v

/-- Work RAM at the stack address of SP = `sp` (R21, R25). -/
def stackByte (ram : Memory 8) (sp : Byte) : Byte := ram.read (0x100 + sp.toNat)

/-- The 16-bit value of the two PRG bytes at a vector's offset in the high window (R80, R372). -/
def vectorWord (c : Cartridge) (off : Nat) : Word :=
  BitVec.ofNat 16 ((c.readPrg off).toNat + 256 * (c.readPrg (off + 1)).toNat)

/-! ### What an instruction may touch -/

/-- The instructions that write the memory operand they name (R133 to R135, R161, R162, R176 to R179). -/
def storesOperand : Mnemonic → Bool
  | .sta | .stx | .sty | .inc | .dec | .asl | .lsr | .rol | .ror => true
  | _ => false

/-- The regions an instruction stores to: the region of its effective address, or its stack bytes. -/
def storedTo (i : Instr) (s : State) : List Region :=
  match i.operand, i.mnemonic with
  | .data (.mem m), mn => if storesOperand mn then [regionOf (effAddr m s).addr] else []
  | _, .pha | _, .php => [regionOf (stackAddr s.cpu.sp)]
  | _, .jsr => [regionOf (stackAddr s.cpu.sp), regionOf (stackAddr (s.cpu.sp - 1#8))]
  | _, .brk =>
    [regionOf (stackAddr s.cpu.sp), regionOf (stackAddr (s.cpu.sp - 1#8)), regionOf (stackAddr (s.cpu.sp - 2#8))]
  | _, _ => []

/-- The addresses of an instruction's data accesses off the stack (R118, R113). -/
def dataAddresses (i : Instr) (s : State) : List Word :=
  match i.operand with
  | .data (.mem m) => [(effAddr m s).addr]
  | .pointer w => [w, wordOf (loByte w + 1#8) (hiByte w)]
  | _ => []

/-- The bits of P an instruction's rule lets it change (the "written by" column of R23 and the "Flags" of each rule). -/
def flagMask : Mnemonic → Byte
  | .adc | .sbc => 0xC3#8
  | .cmp | .cpx | .cpy | .asl | .lsr | .rol | .ror => 0x83#8
  | .bit => 0xC2#8
  | .lda | .ldx | .ldy | .tax | .tay | .txa | .tya | .tsx | .and | .ora | .eor
  | .inc | .dec | .inx | .iny | .dex | .dey | .pla => 0x82#8
  | .clc | .sec => 0x01#8
  | .cld | .sed => 0x08#8
  | .clv => 0x40#8
  | .brk => 0x04#8
  | .plp | .rti => 0xFF#8
  | .sta | .stx | .sty | .txs | .bcc | .bcs | .beq | .bmi | .bne | .bpl | .bvc | .bvs | .jmp | .jsr | .rts
  | .pha | .php | .cli | .sei | .nop => 0x00#8

/-- The instructions that write A, other than in the accumulator form of a shift. -/
def writesA : Mnemonic → Bool
  | .lda | .adc | .sbc | .and | .ora | .eor | .txa | .tya | .pla => true
  | _ => false

def writesX : Mnemonic → Bool
  | .ldx | .tax | .tsx | .inx | .dex => true
  | _ => false

def writesY : Mnemonic → Bool
  | .ldy | .tay | .iny | .dey => true
  | _ => false

def writesSp : Mnemonic → Bool
  | .txs | .pha | .php | .pla | .plp | .jsr | .rts | .rti | .brk => true
  | _ => false

def writesPc : Mnemonic → Bool
  | .bcc | .bcs | .beq | .bmi | .bne | .bpl | .bvc | .bvs | .jmp | .jsr | .rts | .rti | .brk => true
  | _ => false

def writesPendI : Mnemonic → Bool
  | .cli | .sei | .plp => true
  | _ => false

/-- What a step costs beyond the row's base cycles: the page crossing, the taken branch, the OAM DMA's stall (R467). -/
def extraCycles (i : Instr) (s : State) : Nat :=
  (match i.operand with
    | .data (.mem m) => if i.row.pagePenalty && (effAddr m s).crossed then 1 else 0
    | .rel n =>
      if branchCondition s.cpu.p i.mnemonic = some true then
        branchPenalty s.cpu.pc (branchTo s.cpu.pc n) else 0
    | _ => 0)
  + (if Region.oamDma ∈ storedTo i s then
      (if (s.cpu.cycles + i.row.baseCycles) % 2 = 0 then 513 else 514) else 0)

/-- Object `n` covers the line: its row `L - (oam[4n] + 1)` lies in `0 .. h-1` (R340). -/
def coversLine (p : Ppu) (line n : Nat) : Bool :=
  decide ((p.oam.read (4 * n)).toNat + 1 ≤ line)
    && decide (line < (p.oam.read (4 * n)).toNat + 1 + if p.ctrl.getLsbD 5 then 16 else 8)

/-- The value 0 to 3 of bit `b` of the two planes at a pattern address and 8 beyond it (R341, R342). -/
def planes (p : Ppu) (c : Cartridge) (addr b : Nat) : Nat :=
  2 * ((ppuRead p c (BitVec.ofNat 14 (addr + 8))).getLsbD b).toNat + ((ppuRead p c (BitVec.ofNat 14 addr)).getLsbD b).toNat

/-- What object `n` shows in column `x` of a line it covers: 0 outside its 8 columns, else its pixel 0 to 3 (R342). -/
def objectShows (p : Ppu) (c : Cartridge) (line x n : Nat) : Nat :=
  let left := (p.oam.read (4 * n + 3)).toNat
  let tile := (p.oam.read (4 * n + 1)).toNat
  let a := p.oam.read (4 * n + 2)
  let tall := p.ctrl.getLsbD 5
  let down := line - ((p.oam.read (4 * n)).toNat + 1)
  let row := if a.getLsbD 7 then (if tall then 15 else 7) - down else down
  let col := if a.getLsbD 6 then 7 - (x - left) else x - left
  let addr :=
    if tall then (if tile % 2 = 1 then 4096 else 0) + 16 * (tile / 2 * 2 + row / 8) + row % 8
    else (if p.ctrl.getLsbD 3 then 4096 else 0) + 16 * tile + row
  if left ≤ x ∧ x < left + 8 then planes p c addr (7 - col) else 0

/-- The colour R344 chooses. -/
def priorityColour (p : Ppu) (bg : BgPixel) (ob : Option ObjectPixel) : Colour :=
  match ob with
  | none => if bg.solid then p.pal.read bg.index else p.pal.read 0
  | some o => if bg.solid && o.behind then p.pal.read bg.index else p.pal.read o.index

end Sys2Proof.Claims

open Sys2Proof.Claims

/-! ### Encoding and decoding -/

/-- Decoding an encoded instruction gives it back, whatever bytes follow, for every instruction at every operand (R100, R115). -/
def Obligations.DecodeOfEncodeIsTheInstruction : Prop :=
  ∀ (i : Instr) (rest : List Byte), decode (encode i ++ rest) = .ok (i, rest)

/-- Each instruction has one encoding: bytes that decode to it begin with it (R100: no alternative forms). -/
def Obligations.DecodedBytesAreTheEncoding : Prop :=
  ∀ (bs rest : List Byte) (i : Instr), decode bs = .ok (i, rest) → bs = encode i ++ rest

/-- An opcode byte is refused exactly when it is one of R114's 105. -/
def Obligations.InvalidOpcodesAreTheListed105 : Prop :=
  ∀ (op : Byte) (rest : List Byte), decode (op :: rest) = .error (.invalidOpcode op) ↔ op ∈ invalidOpcodes

/-- Every instruction exists in its mode with the opcode its rule's "Encoding" line gives and the base cost and page-cross
penalty of its cell in the opcode map, and its length is 1 plus the operand bytes of its mode (R100, R115). -/
def Obligations.OpcodesAreThoseOfTheRules : Prop :=
  ∀ i : Instr, encoded i ∧ i.wellFormed = true ∧ (encode i).length = 1 + i.operand.mode.operandBytes

/-- Words written out from the spec's encodings decode to the instructions they stand for (R101, R115). -/
def Obligations.SpecWordsDecode : Prop :=
  decodeTableWord 16 0x42A9 = some (.ldaImm 0x42#8)
  ∧ decodeTableWord 24 0x02FF6C = some (.jmpInd 0x02FF#16)
  ∧ decodeTableWord 24 0x10FF7E = some (.rorAbsX 0x10FF#16)
  ∧ decodeTableWord 16 0xFED0 = some (.bne 0xFE#8)
  ∧ decodeTableWord 8 0x28 = some .plp
  ∧ decodeTableWord 16 0x2091 = some (.staIndY 0x20#8)
  ∧ decodeTableWord 8 0x02 = none

/-! ### Stepping -/

/-- When the bytes fetched from PC on, wherever PC points, are an instruction's, a CPU step runs exactly that instruction: the
fetches' side effects, PC past its bytes, the pending I carried (R205), the meaning, then the carried I written unless the
instruction is BRK or RTI. When the bytes are stored ones, the fetches change nothing but PC (R61, R101, R205, R402). -/
def Obligations.StepRunsTheDecodedInstruction : Prop :=
  ∀ (s t : State) (i : Instr), s.cpuDue = true → s.cpu.nmiPending = false →
    let u := (fetches i.length s).2
    ((fetches i.length s).1 = encode i →
      exec i { u with cpu := { u.cpu with carryI := s.cpu.pendI, pendI := none } } = .next t →
      step s = .next (completed i s.cpu.pendI t))
    ∧ ((∀ k : Nat, k < i.length → peek s (s.cpu.pc + BitVec.ofNat 16 k) = (encode i)[k]?) →
      exec i { s with cpu := { s.cpu with
          pc := s.cpu.pc + BitVec.ofNat 16 i.length, carryI := s.cpu.pendI, pendI := none } } = .next t →
      step s = .next (completed i s.cpu.pendI t))

/-- Fetching an invalid opcode sets the fault mark and changes nothing but the fetch's own side effects, and a faulted
machine has no further step: every run_frame returns the fault and changes nothing (R114, R435, R405). That the mark is set by
one step and the fault answered by the next is the model's cut (log 8); that the fault is answered even where R407's
preconditions of a run_frame fail is its choice (log 25). -/
def Obligations.InvalidOpcodeFaultsTheMachine : Prop :=
  (∀ s : State, s.cpuDue = true → s.cpu.nmiPending = false → (memRead s.cpu.pc s).1 ∈ invalidOpcodes →
    step s = .next { (memRead s.cpu.pc s).2 with
      fault := some (.invalidOpcode (memRead s.cpu.pc s).1 s.cpu.pc) })
  ∧ ∀ (s : State) (f : Fault), s.fault = some f → step s = .fault f ∧ runFrame s = .fault f s

/-- A pending NMI is taken before the instruction at PC: the pending I resolved, PC and status pushed, I set, PC from the
NMI vector, 7 cycles (R425, R430). -/
def Obligations.PendingNmiIsEntered : Prop :=
  ∀ s : State, s.cpuDue = true → s.cpu.nmiPending = true →
    let p := match s.cpu.pendI with
      | some v => (s.cpu.p &&& 0xFB#8) ||| (if v then 0x04#8 else 0x00#8)
      | none => s.cpu.p
    let ram1 := pushed s.ram s.cpu.sp (BitVec.ofNat 8 (s.cpu.pc.toNat / 256))
    let ram2 := pushed ram1 (s.cpu.sp - 1#8) (BitVec.ofNat 8 s.cpu.pc.toNat)
    step s = .next { s with
      ram := pushed ram2 (s.cpu.sp - 2#8) ((p &&& 0xEF#8) ||| 0x20#8)
      cpu := { paid s.cpu 7 with
        sp := s.cpu.sp - 3#8, p := p ||| 0x04#8, pendI := none, nmiPending := false
        pc := vectorWord s.cart 0x7FFA } }

/-! ### Loads, stores, transfers -/

/-- LDA, LDX, LDY in every mode: the operand to the register, SetZN, nothing else (R130 to R132). -/
def Obligations.LoadsWriteTheirRegister : Prop :=
  ∀ (i : Instr) (d : DataOperand) (s : State), i.operand = .data d →
    let r := src d s
    let c : Cpu := { paid s.cpu (readCost i d s) with p := pZN r.value s.cpu.p }
    (i.mnemonic = .lda → encoded i ∧ exec i s = .next { r.st with cpu := { c with a := r.value } })
    ∧ (i.mnemonic = .ldx → encoded i ∧ exec i s = .next { r.st with cpu := { c with x := r.value } })
    ∧ (i.mnemonic = .ldy → encoded i ∧ exec i s = .next { r.st with cpu := { c with y := r.value } })

/-- TAX, TAY, TXA, TYA, TSX, TXS, INX, INY, DEX, DEY: the register, Z and N (not for TXS), 2 cycles, nothing else (R136 to
R141, R163 to R166). -/
def Obligations.RegisterTransfersAndCounts : Prop :=
  ∀ (i : Instr) (s : State) (c : Cpu), registerEffect s.cpu i.mnemonic = some c →
    encoded i ∧ exec i s = .next { s with cpu := paid c 2 }

/-- STA, STX, STY in every mode: one write of the register at the effective address, no flag, the row's fixed cost (R133
to R135). -/
def Obligations.StoresWriteTheRegister : Prop :=
  ∀ (i : Instr) (m : MemOperand) (s : State) (v : Byte), i.operand = .data (.mem m) →
    storedRegister s.cpu i.mnemonic = some v →
    let w := memWrite i.row.baseCycles (effAddr m s).addr v s
    encoded i ∧ exec i s = .next { w with cpu := paid w.cpu i.row.baseCycles }

/-! ### Arithmetic and logic -/

/-- ADC in every mode, whatever D is: the sum with carry modulo 256, C the ninth bit, V when both operands' signs differ
from the result's (R152, R150). -/
def Obligations.AdcAddsWithCarry : Prop :=
  ∀ (i : Instr) (d : DataOperand) (s : State), i.operand = .data d → i.mnemonic = .adc →
    let r := src d s
    let sum := s.cpu.a.toNat + r.value.toNat + carry s.cpu.p
    let a := BitVec.ofNat 8 sum
    encoded i ∧ exec i s = .next { r.st with cpu := { paid s.cpu (readCost i d s) with
      a := a
      p := pCVZN (decide (256 ≤ sum)) (s.cpu.a.msb != a.msb && r.value.msb != a.msb) a s.cpu.p } }

/-- SBC in every mode: ADC of the operand's complement, so C = 1 means no borrow (R153). -/
def Obligations.SbcSubtractsWithBorrow : Prop :=
  ∀ (i : Instr) (d : DataOperand) (s : State), i.operand = .data d → i.mnemonic = .sbc →
    let r := src d s
    let sum := s.cpu.a.toNat + (255 - r.value.toNat) + carry s.cpu.p
    let a := BitVec.ofNat 8 sum
    encoded i ∧ exec i s = .next { r.st with cpu := { paid s.cpu (readCost i d s) with
      a := a
      p := pCVZN (decide (256 ≤ sum)) (s.cpu.a.msb != a.msb && r.value.msb == a.msb) a s.cpu.p } }

/-- AND, ORA, EOR in every mode (R154 to R156). -/
def Obligations.LogicWritesTheAccumulator : Prop :=
  ∀ (i : Instr) (d : DataOperand) (s : State) (a : Byte), i.operand = .data d →
    logicResult s.cpu.a (src d s).value i.mnemonic = some a →
    encoded i ∧ exec i s = .next { (src d s).st with cpu := { paid s.cpu (readCost i d s) with
      a := a, p := pZN a s.cpu.p } }

/-- CMP, CPX, CPY: C when the register is at least the operand (unsigned), Z and N of the difference, nothing else; BIT: Z
of A AND m, N and V from the operand's bits 7 and 6 (R151, R157 to R160). -/
def Obligations.ComparesAndBitSetFlags : Prop :=
  ∀ (i : Instr) (d : DataOperand) (s : State), i.operand = .data d →
    let m := (src d s).value
    (∀ r, comparedRegister s.cpu i.mnemonic = some r →
      encoded i ∧ exec i s = .next { (src d s).st with cpu := { paid s.cpu (readCost i d s) with
        p := pCZN (decide (m.toNat ≤ r.toNat)) (BitVec.ofNat 8 (r.toNat + (256 - m.toNat))) s.cpu.p } })
    ∧ (i.mnemonic = .bit →
      encoded i ∧ exec i s = .next { (src d s).st with cpu := { paid s.cpu (readCost i d s) with
        p := (s.cpu.p &&& 0x3D#8) ||| (if s.cpu.a &&& m = 0#8 then 0x02#8 else 0x00#8) ||| (m &&& 0xC0#8) } })

/-- INC and DEC: one read and one write of the same address, Z and N of the result, the row's fixed cost (R161, R162, R119). -/
def Obligations.IncDecModifyMemory : Prop :=
  ∀ (i : Instr) (m : MemOperand) (s : State) (delta : Nat), i.operand = .data (.mem m) →
    (i.mnemonic = .inc ∧ delta = 1 ∨ i.mnemonic = .dec ∧ delta = 255) →
    let e := (effAddr m s).addr
    let old := (memRead e s).1
    let new := BitVec.ofNat 8 (old.toNat + delta)
    let w := memWrite i.row.baseCycles e new (memRead e s).2
    encoded i ∧ exec i s = .next { w with cpu := { paid w.cpu i.row.baseCycles with p := pZN new s.cpu.p } }

/-- ASL, LSR, ROL, ROR: of the accumulator, 2 cycles; of memory, one read and one write of the same address and the row's
fixed cost; then C, Z and N (R175 to R179, R119). -/
def Obligations.ShiftsAndRotates : Prop :=
  (∀ (i : Instr) (s : State) (r : Nat) (c : Bool), i.operand = .acc →
    shiftEffect s.cpu.a.toNat (carry s.cpu.p) i.mnemonic = some (r, c) →
    encoded i ∧ exec i s = .next { s with cpu := { paid s.cpu 2 with
      a := BitVec.ofNat 8 r, p := pCZN c (BitVec.ofNat 8 r) s.cpu.p } })
  ∧ ∀ (i : Instr) (m : MemOperand) (s : State) (r : Nat) (c : Bool), i.operand = .data (.mem m) →
    let e := (effAddr m s).addr
    shiftEffect (memRead e s).1.toNat (carry s.cpu.p) i.mnemonic = some (r, c) →
    let w := memWrite i.row.baseCycles e (BitVec.ofNat 8 r) (memRead e s).2
    encoded i ∧ exec i s = .next { w with cpu := { paid w.cpu i.row.baseCycles with
      p := pCZN c (BitVec.ofNat 8 r) s.cpu.p } }

/-! ### Control transfer -/

/-- The eight branches: not taken, 2 cycles and PC stays; taken, PC is the target and 1 or 2 cycles more (R185 to R193, R112). -/
def Obligations.BranchesTestTheirFlag : Prop :=
  ∀ (i : Instr) (n : Byte) (s : State) (taken : Bool), i.operand = .rel n →
    branchCondition s.cpu.p i.mnemonic = some taken →
    let t := branchTo s.cpu.pc n
    encoded i ∧ exec i s = .next { s with cpu :=
      if taken then { paid s.cpu (2 + branchPenalty s.cpu.pc t) with pc := t } else paid s.cpu 2 }

/-- JMP: the operand, or the pointer's two bytes, the high one from the pointer's own page (R194, R113). -/
def Obligations.JumpsLoadPc : Prop :=
  (∀ (w : Word) (s : State), exec (.jmpAbs w) s = .next { s with cpu := { paid s.cpu 3 with pc := w } })
  ∧ (∀ (w : Word) (s : State),
      let lo := memRead w s
      let hi := memRead (BitVec.ofNat 16 (w.toNat / 256 * 256 + (w.toNat + 1) % 256)) lo.2
      exec (.jmpInd w) s = .next { hi.2 with cpu := { paid s.cpu 5 with
        pc := BitVec.ofNat 16 (lo.1.toNat + 256 * hi.1.toNat) } })
  ∧ ∀ w : Word, encoded (.jmpAbs w) ∧ encoded (.jmpInd w)

/-- JSR pushes the address of its last byte, high byte first; RTS pulls it, low byte first, and adds 1 (R195, R196). -/
def Obligations.CallAndReturn : Prop :=
  (∀ (w : Word) (s : State), encoded (.jsr w) ∧
    exec (.jsr w) s = .next { s with
      ram := pushed (pushed s.ram s.cpu.sp (BitVec.ofNat 8 ((s.cpu.pc - 1#16).toNat / 256))) (s.cpu.sp - 1#8)
        (BitVec.ofNat 8 (s.cpu.pc - 1#16).toNat)
      cpu := { paid s.cpu 6 with sp := s.cpu.sp - 2#8, pc := w } })
  ∧ ∀ s : State, encoded .rts ∧
    exec .rts s = .next { s with cpu := { paid s.cpu 6 with
      sp := s.cpu.sp + 2#8
      pc := BitVec.ofNat 16 ((stackByte s.ram (s.cpu.sp + 1#8)).toNat
        + 256 * (stackByte s.ram (s.cpu.sp + 2#8)).toNat + 1) } }

/-- RTI pulls P (B dropped, U forced, I written directly) and PC without the +1 (R197). -/
def Obligations.RtiRestoresStatusAndPc : Prop :=
  ∀ s : State, encoded .rti ∧
    exec .rti s = .next { s with cpu := { paid s.cpu 6 with
      sp := s.cpu.sp + 3#8
      p := (stackByte s.ram (s.cpu.sp + 1#8) &&& 0xCF#8) ||| 0x20#8
      pc := BitVec.ofNat 16 ((stackByte s.ram (s.cpu.sp + 2#8)).toNat
        + 256 * (stackByte s.ram (s.cpu.sp + 3#8)).toNat) } }

/-- BRK, PC standing after its opcode: the address after the signature byte and P with B and U pushed, I set, PC from the
break vector, 7 cycles (R198). -/
def Obligations.BrkEntersTheBreakHandler : Prop :=
  ∀ s : State,
    let ret := s.cpu.pc + 1#16
    let ram1 := pushed s.ram s.cpu.sp (BitVec.ofNat 8 (ret.toNat / 256))
    let ram2 := pushed ram1 (s.cpu.sp - 1#8) (BitVec.ofNat 8 ret.toNat)
    encoded .brk ∧
    exec .brk s = .next { s with
      ram := pushed ram2 (s.cpu.sp - 2#8) (s.cpu.p ||| 0x30#8)
      cpu := { paid s.cpu 7 with
        sp := s.cpu.sp - 3#8, p := s.cpu.p ||| 0x04#8, pc := vectorWord s.cart 0x7FFE } }

/-! ### Stack and flags -/

/-- PHA pushes A, PHP pushes P with B and U set, 3 cycles; PLA pulls A with SetZN, PLP pulls N, V, D, Z, C at once and I
into the pending slot, U forced, B dropped, 4 cycles (R206 to R209). -/
def Obligations.StackInstructions : Prop :=
  ∀ s : State,
    let b := stackByte s.ram (s.cpu.sp + 1#8)
    encoded .pha ∧ encoded .php ∧ encoded .pla ∧ encoded .plp ∧
    exec .pha s = .next { s with
      ram := pushed s.ram s.cpu.sp s.cpu.a, cpu := { paid s.cpu 3 with sp := s.cpu.sp - 1#8 } }
    ∧ exec .php s = .next { s with
      ram := pushed s.ram s.cpu.sp (s.cpu.p ||| 0x30#8), cpu := { paid s.cpu 3 with sp := s.cpu.sp - 1#8 } }
    ∧ exec .pla s = .next { s with cpu := { paid s.cpu 4 with sp := s.cpu.sp + 1#8, a := b, p := pZN b s.cpu.p } }
    ∧ exec .plp s = .next { s with cpu := { paid s.cpu 4 with
      sp := s.cpu.sp + 1#8
      p := (b &&& 0xCB#8) ||| (s.cpu.p &&& 0x04#8) ||| 0x20#8
      pendI := some (b.getLsbD 2) } }

/-- CLC, SEC, CLD, SED, CLV write their one flag, NOP nothing; 2 cycles (R210, R211, R213 to R215, R217). -/
def Obligations.FlagInstructionsAndNop : Prop :=
  ∀ (i : Instr) (s : State) (p : Byte), flagEffect s.cpu.p i.mnemonic = some p →
    encoded i ∧ exec i s = .next { s with cpu := { paid s.cpu 2 with p := p } }

/-- CLI and SEI fill the pending slot and leave P alone; 2 cycles (R212, R216). -/
def Obligations.CliAndSeiAreDeferred : Prop :=
  ∀ s : State,
    encoded .cli ∧ encoded .sei ∧
    exec .cli s = .next { s with cpu := { paid s.cpu 2 with pendI := some false } }
    ∧ exec .sei s = .next { s with cpu := { paid s.cpu 2 with pendI := some true } }

/-! ### Addressing, cost, frames -/

/-- The effective address, the page crossing and the undisturbed state of every memory mode, and the operand of a reading
instruction (R105 to R111). -/
def Obligations.EffectiveAddresses : Prop :=
  ∀ (n : Byte) (w : Word) (s : State),
    let x := s.cpu.x.toNat
    let y := s.cpu.y.toNat
    let pointer := fun k : Nat => (s.ram.read k).toNat + 256 * (s.ram.read ((k + 1) % 256)).toNat
    let indexedBy := fun (base r : Nat) =>
      let ea := (base + r) % 65536
      (⟨BitVec.ofNat 16 ea, decide (base / 256 ≠ ea / 256), s⟩ : Ea)
    effAddr (.zp n) s = ⟨BitVec.ofNat 16 n.toNat, false, s⟩
    ∧ effAddr (.zpX n) s = ⟨BitVec.ofNat 16 ((n.toNat + x) % 256), false, s⟩
    ∧ effAddr (.zpY n) s = ⟨BitVec.ofNat 16 ((n.toNat + y) % 256), false, s⟩
    ∧ effAddr (.abs w) s = ⟨w, false, s⟩
    ∧ effAddr (.absX w) s = indexedBy w.toNat x
    ∧ effAddr (.absY w) s = indexedBy w.toNat y
    ∧ effAddr (.indX n) s = ⟨BitVec.ofNat 16 (pointer ((n.toNat + x) % 256)), false, s⟩
    ∧ effAddr (.indY n) s = indexedBy (pointer n.toNat) y
    ∧ src (.imm n) s = ⟨n, false, s⟩
    ∧ ∀ m : MemOperand, src (.mem m) s
        = ⟨(memRead (effAddr m s).addr s).1, (effAddr m s).crossed, (memRead (effAddr m s).addr s).2⟩

/-- Every instruction's step costs its row's base cycles, the page-cross penalty, the branch penalty and an OAM DMA's
stall, charged alike to `cycles` and to `credit` (R116, R185, R467, R72). -/
def Obligations.EveryInstructionCostsItsTableEntry : Prop :=
  ∀ (i : Instr) (s t : State), exec i s = .next t →
    t.cpu.cycles = s.cpu.cycles + i.row.baseCycles + extraCycles i s
    ∧ t.cpu.credit = s.cpu.credit - ((i.row.baseCycles + extraCycles i s : Nat) : Int)

/-- What no instruction changes unless its rule says so: A, X, Y, SP, PC, each flag of P, the pending I; and never the
carried I, the NMI latch, the fault mark, the boot stage, the accumulator or the dispatcher's turn (R20 to R30). -/
def Obligations.InstructionsChangeOnlyTheirRegisters : Prop :=
  ∀ (i : Instr) (s t : State), exec i s = .next t →
    (writesA i.mnemonic = false → i.operand ≠ .acc → t.cpu.a = s.cpu.a)
    ∧ (writesX i.mnemonic = false → t.cpu.x = s.cpu.x)
    ∧ (writesY i.mnemonic = false → t.cpu.y = s.cpu.y)
    ∧ (writesSp i.mnemonic = false → t.cpu.sp = s.cpu.sp)
    ∧ (writesPc i.mnemonic = false → t.cpu.pc = s.cpu.pc)
    ∧ (writesPendI i.mnemonic = false → t.cpu.pendI = s.cpu.pendI)
    ∧ (t.cpu.p &&& ~~~flagMask i.mnemonic) = (s.cpu.p &&& ~~~flagMask i.mnemonic)
    ∧ t.cpu.carryI = s.cpu.carryI ∧ t.cpu.nmiPending = s.cpu.nmiPending
    ∧ t.fault = s.fault ∧ t.boot = s.boot ∧ t.acc = s.acc ∧ t.turn = s.turn

/-- Every stored byte outside the bytes an instruction stores to reads as before; the stored bytes are those of the
region its effective address or its stack pointer reaches (R85, R133 to R135, R161, R162, R176 to R179, R195, R198, R206). -/
def Obligations.InstructionsStoreOnlyWhereTheySay : Prop :=
  ∀ (i : Instr) (s t : State), exec i s = .next t →
    ∀ a : Word, regionOf a ∉ storedTo i s → peek t a = peek s a

/-- An instruction whose data accesses reach no PPU port, no OAM DMA port and no audio or input register leaves the whole
PPU, the cartridge's pattern and four-screen storage and the free values' count alone (R64 to R68, R73). -/
def Obligations.PpuChangesOnlyThroughPorts : Prop :=
  ∀ (i : Instr) (s t : State), exec i s = .next t →
    (∀ a ∈ dataAddresses i s, ∀ r, regionOf a ≠ .port r) →
    (∀ a ∈ dataAddresses i s,
      regionOf a ≠ .oamDma ∧ regionOf a ≠ .audio ∧ regionOf a ≠ .audioStatus ∧ regionOf a ≠ .input) →
    t.ppu = s.ppu ∧ t.draws = s.draws ∧ t.cart.chr = s.cart.chr ∧ t.cart.fourRam = s.cart.fourRam

/-! ### The bus -/

/-- The decoder's table, row by row: what a read returns and what a write changes at every address (R60, R63 to R65, R67
to R71), the eight ports by their names in R300's table. A draw is some byte; the model's count of draws (log 5) is left free. OAM DMA has its own statement. -/
def Obligations.BusDecodesEveryAddress : Prop :=
  ∀ (a : Word) (v : Byte) (c : Nat) (s : State),
    let n := a.toNat
    (n < 0x2000 → memRead a s = (s.ram.read (n % 0x800), s)
      ∧ memWrite c a v s = { s with ram := s.ram.write (n % 0x800) v })
    ∧ (0x2000 ≤ n → n < 0x4000 → memRead a s = portRead (portNamed (n % 8)) s
      ∧ memWrite c a v s = { s with
          ppu := (portWrite (portNamed (n % 8)) v s.ppu s.cart).1
          cart := (portWrite (portNamed (n % 8)) v s.ppu s.cart).2 })
    ∧ (0x4000 ≤ n → n < 0x4018 → (∃ b k, memRead a s = (b, { s with draws := k }))
      ∧ (n ≠ 0x4014 → memWrite c a v s = s))
    ∧ (0x4018 ≤ n → n < 0x6000 → memRead a s = (0x00#8, s) ∧ memWrite c a v s = s)
    ∧ (0x6000 ≤ n → n < 0x8000 → s.cart.hasSaveRam = true →
        memRead a s = (s.cart.sram.read (n - 0x6000), s)
        ∧ memWrite c a v s = { s with cart := { s.cart with sram := s.cart.sram.write (n - 0x6000) v } })
    ∧ (0x6000 ≤ n → n < 0x8000 → s.cart.hasSaveRam = false →
        memRead a s = (0x00#8, s) ∧ memWrite c a v s = s)
    ∧ (0x8000 ≤ n →
        memRead a s = (s.cart.prg.read ((n - 0x8000) % (match s.cart.prgSize with | .kb16 => 16384 | .kb32 => 32768)), s)
        ∧ memWrite c a v s = s)

/-- A byte written to work RAM reads back through each of its four mirrors, and no other byte of work RAM changes (R63). -/
def Obligations.RamReadsBackThroughItsMirrors : Prop :=
  ∀ (a b : Word) (v : Byte) (c : Nat) (s : State), s.wf = true → a.toNat < 0x2000 → b.toNat < 0x2000 →
    (memRead b (memWrite c a v s)).1
      = if b.toNat % 0x800 = a.toNat % 0x800 then v else (memRead b s).1

/-- Only a status or a VRAM-data read has a side effect; any other read is idempotent and changes nothing but the count
of free values; and no read changes a stored byte, the cartridge or the CPU (R73, R61). -/
def Obligations.ReadSideEffects : Prop :=
  ∀ (a b : Word) (s : State),
    (regionOf a ≠ .port .status → regionOf a ≠ .port .data →
      (memRead a s).2 = { s with draws := (memRead a s).2.draws })
    ∧ (∀ v, peek s a = some v → memRead a s = (v, s))
    ∧ peek (memRead a s).2 b = peek s b
    ∧ (memRead a s).2.cart = s.cart ∧ (memRead a s).2.cpu = s.cpu ∧ (memRead a s).2.ram = s.ram
    ∧ (memRead a s).2.ppu.oam = s.ppu.oam ∧ (memRead a s).2.ppu.pal = s.ppu.pal
    ∧ (memRead a s).2.ppu.ciram = s.ppu.ciram

/-- OAM DMA from page `d`: 256 reads through the bus, one after another with their side effects, byte `k` of the page to OAM
at `oamaddr + k` modulo 256; then a stall of 513 or 514 by the parity of `cycles` plus the instruction's cost, and nothing else.
From a page of stored bytes, OAM then holds the page (R72). -/
def Obligations.OamDmaCopiesThePage : Prop :=
  ∀ (c : Nat) (d : Byte) (s : State),
    let stalled := paid s.cpu (if (s.cpu.cycles + c) % 2 = 0 then 513 else 514)
    (∃ f : Nat → State, f 0 = s
      ∧ (∀ k : Nat, k < 256 →
          let r := memRead (BitVec.ofNat 16 (256 * d.toNat + k)) (f k)
          f (k + 1) = { r.2 with ppu := { r.2.ppu with
            oam := r.2.ppu.oam.write ((s.ppu.oamaddr.toNat + k) % 256) r.1 } })
      ∧ memWrite c 0x4014#16 d s = { f 256 with cpu := stalled })
    ∧ ∀ page : Nat → Byte, s.wf = true →
        (∀ k : Nat, k < 256 → peek s (BitVec.ofNat 16 (256 * d.toNat + k)) = some (page k)) →
        ∃ oam : Memory 8,
          (∀ k : Nat, k < 256 → oam.read ((s.ppu.oamaddr.toNat + k) % 256) = page k)
          ∧ memWrite c 0x4014#16 d s = { s with ppu := { s.ppu with oam := oam }, cpu := stalled }

/-! ### The PPU's ports and address space -/

/-- $2000, $2001, $2003 and $2004 as written and read; a write-only port reads as some drawn byte and changes nothing
but the model's count of draws, which is left free (log 5; R300, R301, R302, R304, R305). -/
def Obligations.ControlAndObjectPorts : Prop :=
  ∀ (d : Byte) (s : State),
    let p := s.ppu
    portWrite .ctrl d p s.cart
        = ({ p with ctrl := d, t := (p.t &&& 0x73FF#15) ||| BitVec.ofNat 15 (d.toNat % 4 * 1024) }, s.cart)
    ∧ portWrite .mask d p s.cart = ({ p with mask := d }, s.cart)
    ∧ portWrite .status d p s.cart = (p, s.cart)
    ∧ portWrite .oamAddr d p s.cart = ({ p with oamaddr := d }, s.cart)
    ∧ portWrite .oamData d p s.cart
        = ({ p with oam := p.oam.write p.oamaddr.toNat d,
                    oamaddr := BitVec.ofNat 8 (p.oamaddr.toNat + 1) }, s.cart)
    ∧ portRead .oamData s = (p.oam.read p.oamaddr.toNat, s)
    ∧ ∀ r : Port, r = .ctrl ∨ r = .mask ∨ r = .oamAddr ∨ r = .scroll ∨ r = .addr →
        ∃ b k, portRead r s = (b, { s with draws := k })

/-- $2002 read: the three flags in bits 7:5 over some drawn bits, then vblank and w cleared, spr0hit and overflow kept
(R303). The model's count of draws is left free (log 5). -/
def Obligations.StatusReadClearsVblankAndToggle : Prop :=
  ∀ s : State, ∃ (b : Byte) (k : Nat),
    portRead .status s
      = (b, { s with draws := k, ppu := { s.ppu with vblank := false, w := false } })
    ∧ b.getLsbD 7 = s.ppu.vblank ∧ b.getLsbD 6 = s.ppu.spr0hit ∧ b.getLsbD 5 = s.ppu.overflow

/-- $2005 and $2006: the two writes of each, on the shared toggle (R306, R307). -/
def Obligations.ScrollAndAddressWrites : Prop :=
  ∀ (d : Byte) (p : Ppu) (c : Cartridge),
    (p.w = false →
      portWrite .scroll d p c
          = ({ p with t := (p.t &&& 0x7FE0#15) ||| BitVec.ofNat 15 (d.toNat / 8),
                      x := BitVec.ofNat 3 d.toNat, w := true }, c)
      ∧ portWrite .addr d p c
          = ({ p with t := (p.t &&& 0x00FF#15) ||| BitVec.ofNat 15 (d.toNat % 64 * 256), w := true }, c))
    ∧ (p.w = true →
      portWrite .scroll d p c
          = ({ p with t := (p.t &&& 0x0C1F#15) ||| BitVec.ofNat 15 (d.toNat % 8 * 4096)
                        ||| BitVec.ofNat 15 (d.toNat / 8 * 32), w := false }, c)
      ∧ portWrite .addr d p c
          = ({ p with t := (p.t &&& 0x7F00#15) ||| BitVec.ofNat 15 d.toNat,
                      v := (p.t &&& 0x7F00#15) ||| BitVec.ofNat 15 d.toNat, w := false }, c))

/-- $2007: a read outside the palette returns the buffer and refills it, a palette read returns the entry and refills the
buffer from the nametable byte beneath; a write stores; each moves `v` on by 1 or 32 modulo 2^15 (R308, R309). -/
def Obligations.VramDataPort : Prop :=
  ∀ (d : Byte) (s : State),
    let p := s.ppu
    let a := p.v.toNat % 0x4000
    let v := BitVec.ofNat 15 (p.v.toNat + if p.ctrl.getLsbD 2 then 32 else 1)
    (a < 0x3F00 → portRead .data s
      = (p.rdbuf, { s with ppu := { p with rdbuf := ppuRead p s.cart (BitVec.ofNat 14 a), v := v } }))
    ∧ (0x3F00 ≤ a → portRead .data s
      = (ppuRead p s.cart (BitVec.ofNat 14 a),
          { s with ppu := { p with rdbuf := ppuRead p s.cart (BitVec.ofNat 14 (a - 0x1000)), v := v } }))
    ∧ portWrite .data d p s.cart
      = ({ (ppuWrite p s.cart (BitVec.ofNat 14 a) d).1 with v := v },
          (ppuWrite p s.cart (BitVec.ofNat 14 a) d).2)

/-- The PPU's address space: CHR (stored only in CHR-RAM), nametables, palette of 6-bit entries with 16, 20, 24, 28 being
0, 4, 8, 12 (R75 to R77, R374). -/
def Obligations.PpuAddressSpace : Prop :=
  ∀ (a : PpuAddr) (d : Byte) (p : Ppu) (c : Cartridge),
    let n := a.toNat
    let i := if n % 32 = 16 ∨ n % 32 = 20 ∨ n % 32 = 24 ∨ n % 32 = 28 then n % 32 - 16 else n % 32
    (n < 0x2000 → ppuRead p c a = c.chr.read n
      ∧ ppuWrite p c a d = (p, if c.chrKind = .ram then { c with chr := c.chr.write n d } else c))
    ∧ (0x2000 ≤ n → n < 0x3F00 → ppuRead p c a = readNametable p c a
      ∧ ppuWrite p c a d = writeNametable p c a d)
    ∧ (0x3F00 ≤ n → (ppuRead p c a).toNat = (p.pal.read i).toNat
      ∧ ppuWrite p c a d = ({ p with pal := p.pal.write i (BitVec.ofNat 6 (d.toNat % 64)) }, c))

/-- The mirroring of each mode, quadrant by quadrant (R377, R378). -/
def Obligations.NametablesAreMirrored : Prop :=
  ∀ (a : PpuAddr) (d : Byte) (p : Ppu) (c : Cartridge), 0x2000 ≤ a.toNat → a.toNat < 0x3F00 →
    let a' := (a.toNat - 0x2000) % 0x1000
    let q := a' / 0x400
    let o := a' % 0x400
    let inCiram := fun page : Nat =>
      readNametable p c a = p.ciram.read (1024 * page + o)
      ∧ writeNametable p c a d = ({ p with ciram := p.ciram.write (1024 * page + o) d }, c)
    (c.mirroring = .horizontal → inCiram (if q = 0 ∨ q = 1 then 0 else 1))
    ∧ (c.mirroring = .vertical → inCiram (if q = 0 ∨ q = 2 then 0 else 1))
    ∧ (c.mirroring = .singleScreenA → inCiram 0)
    ∧ (c.mirroring = .singleScreenB → inCiram 1)
    ∧ (c.mirroring = .fourScreen →
        readNametable p c a = c.fourRam.read (1024 * q + o)
        ∧ writeNametable p c a d = (p, { c with fourRam := c.fourRam.write (1024 * q + o) d }))

/-- A byte written to a palette address reads back masked to 6 bits, there and at every address of the same entry (the
document's round trip, R76, R77). -/
def Obligations.PaletteRoundTrip : Prop :=
  ∀ (a b : PpuAddr) (d : Byte) (p : Ppu) (c : Cartridge), p.wf = true →
    0x3F00 ≤ a.toNat → 0x3F00 ≤ b.toNat →
    (b.toNat % 32 = a.toNat % 32 ∨ a.toNat % 4 = 0 ∧ b.toNat % 16 = a.toNat % 16) →
    ppuRead (ppuWrite p c a d).1 (ppuWrite p c a d).2 b = d &&& 0x3F#8

/-- IncX, IncY, CopyX and CopyY on the fields of a loopy value (R310 to R312). -/
def Obligations.LoopyRegisterOperations : Prop :=
  ∀ r t : Loopy,
    let cy := r.toNat / 32 % 32
    (r.toNat % 32 ≠ 31 → incX r = BitVec.ofNat 15 (r.toNat + 1))
    ∧ (r.toNat % 32 = 31 → incX r = (r &&& 0x7FE0#15) ^^^ 0x0400#15)
    ∧ (r.toNat < 0x7000 → incY r = BitVec.ofNat 15 (r.toNat + 0x1000))
    ∧ (0x7000 ≤ r.toNat → cy = 29 → incY r = (r &&& 0x0C1F#15) ^^^ 0x0800#15)
    ∧ (0x7000 ≤ r.toNat → cy = 31 → incY r = r &&& 0x0C1F#15)
    ∧ (0x7000 ≤ r.toNat → cy ≠ 29 → cy ≠ 31 → incY r = BitVec.ofNat 15 (r.toNat % 0x1000 + 32))
    ∧ copyX r t = (r &&& 0x7BE0#15) ||| (t &&& 0x041F#15)
    ∧ copyY r t = (r &&& 0x041F#15) ||| (t &&& 0x7BE0#15)

/-! ### The PPU's frame -/

/-- Ticks move the position dot by dot and line by line; the 341 x 262 positions of a frame are walked once, the tick
that leaves the last one completes the frame, toggles the parity and starts an odd frame at dot 1 (R331 to R333, R349). -/
def Obligations.TicksWalkTheFrame : Prop :=
  ∀ (n : Nat) (s : State), s.ppu.dot ≤ 340 → s.ppu.scanline ≤ 261 →
    let pos := s.ppu.scanline * 341 + s.ppu.dot
    let r := ppuStep n s
    (pos + n < 89342 → r.2 = false ∧ r.1.ppu.scanline * 341 + r.1.ppu.dot = pos + n
      ∧ r.1.ppu.dot ≤ 340 ∧ r.1.ppu.odd = s.ppu.odd)
    ∧ (pos + n = 89342 → r.2 = true ∧ r.1.ppu.scanline = 0
      ∧ r.1.ppu.dot = (if s.ppu.odd then 0 else 1) ∧ r.1.ppu.odd = !s.ppu.odd)

/-- The events other than those of dot 256: VBlank start with its NMI request, the pre-render clear, CopyX, CopyY; no other
position has an event (R335, R336, R348, R404). What the tick that completes a frame does to the frame buffer is left to
DispatcherIteration. -/
def Obligations.TickEvents : Prop :=
  ∀ s : State, s.ppu.dot ≤ 340 → s.ppu.scanline ≤ 261 →
    let p := s.ppu
    let re := p.mask.getLsbD 3 || p.mask.getLsbD 4
    let copyXDue : Prop := (p.scanline < 240 ∨ p.scanline = 261) ∧ p.dot = 257
    let copyYDue : Prop := p.scanline = 261 ∧ 280 ≤ p.dot ∧ p.dot ≤ 304
    (p.scanline = 241 → p.dot = 1 → (tick s).1 = { s with
        ppu := { p with vblank := true, dot := 2 }
        cpu := { s.cpu with nmiPending := s.cpu.nmiPending || p.ctrl.getLsbD 7 } })
    ∧ (p.scanline = 261 → p.dot = 1 → (tick s).1 = { s with
        ppu := { p with vblank := false, spr0hit := false, overflow := false, dot := 2 } })
    ∧ (copyXDue → (tick s).1 = { s with
        ppu := { p with v := (if re then copyX p.v p.t else p.v), dot := 258 } })
    ∧ (copyYDue → (tick s).1 = { s with
        ppu := { p with v := (if re then copyY p.v p.t else p.v), dot := p.dot + 1 } })
    ∧ (¬ (p.scanline = 241 ∧ p.dot = 1) → ¬ (p.scanline = 261 ∧ p.dot = 1) → ¬ copyXDue → ¬ copyYDue →
        ¬ (p.scanline < 240 ∧ p.dot = 256) → ∃ (fb frame : List (Nat × List Pixel)), (tick s).1 = { s with
        ppu := { p with
          dot := (tick s).1.ppu.dot, scanline := (tick s).1.ppu.scanline, odd := (tick s).1.ppu.odd
          fb := fb, frame := frame } }
        ∧ ((tick s).2 = false → fb = p.fb ∧ frame = p.frame))

/-- Object evaluation: the first 8 objects that cover the line, in OAM order; a ninth sets overflow (R340). -/
def Obligations.ObjectEvaluation : Prop :=
  ∀ (line : Nat) (p : Ppu),
    let hits := (List.range 64).filter (coversLine p line)
    evaluateObjects line p = { p with
      sec := hits.take 8, overflow := p.overflow || decide (8 < hits.length) }

/-- The background pixel of every column: nametable byte, attribute bits and the two pattern planes at the walked address, opaque
when non-zero, shown and not clipped (R341). -/
def Obligations.BackgroundPixel : Prop :=
  ∀ (p : Ppu) (c : Cartridge) (x : Nat),
    let fx := x + p.x.toNat
    let r := (incX^[fx / 8] p.v).toNat
    let tile := (ppuRead p c (BitVec.ofNat 14 (0x2000 + r % 4096))).toNat
    let attr := (ppuRead p c (BitVec.ofNat 14 (0x23C0 + 1024 * (r / 1024 % 4) + 8 * (r / 128 % 8) + r / 4 % 8))).toNat
    let pb := attr / 2 ^ (4 * (r / 64 % 2) + 2 * (r / 2 % 2)) % 4
    let pix := planes p c ((if p.ctrl.getLsbD 4 then 4096 else 0) + 16 * tile + p.v.toNat / 4096) (7 - fx % 8)
    let shown : Prop := pix ≠ 0 ∧ p.mask.getLsbD 3 = true ∧ (8 ≤ x ∨ p.mask.getLsbD 1 = true)
    (shown → bgPixel p c x = ⟨true, 4 * pb + pix⟩) ∧ (¬ shown → bgPixel p c x = ⟨false, 0⟩)

/-- The object pixel of a column, the buffer holding objects that cover the line: the first object of the buffer that reaches
the column with a non-zero pixel, flipped and fetched as its attributes say; none where no object does, or where objects are
hidden or clipped (R342). -/
def Obligations.ObjectPixels : Prop :=
  ∀ (p : Ppu) (c : Cartridge) (line x : Nat), (∀ m ∈ p.sec, coversLine p line m = true) →
    let shown : Prop := p.mask.getLsbD 4 = true ∧ (8 ≤ x ∨ p.mask.getLsbD 2 = true)
    (∀ (before after : List Nat) (n : Nat), shown → p.sec = before ++ n :: after →
      (∀ m ∈ before, objectShows p c line x m = 0) → objectShows p c line x n ≠ 0 →
      objectPixel p c line x = some
        ⟨16 + 4 * ((p.oam.read (4 * n + 2)).toNat % 4) + objectShows p c line x n, (p.oam.read (4 * n + 2)).getLsbD 5, n⟩)
    ∧ ((∀ m ∈ p.sec, objectShows p c line x m = 0) → objectPixel p c line x = none)
    ∧ (¬ shown → objectPixel p c line x = none)

/-- Dot 256 of a visible line: with rendering enabled the objects are evaluated, the line is rendered and `v` takes IncY;
otherwise the buffer is emptied and the line is rendered. Rendering writes the line's 256 entries with R344's colours,
keeps every other line, and sets the sprite-zero hit where an opaque pixel of object 0 meets an opaque background pixel
(R335, R340, R344 to R346). Which tag a pixel gets is a free value (log 6) and not stated. -/
def Obligations.VisibleLineIsRendered : Prop :=
  ∀ s : State, s.wf = true → s.ppu.scanline < 240 → s.ppu.dot = 256 →
    let line := s.ppu.scanline
    let re := s.ppu.mask.getLsbD 3 || s.ppu.mask.getLsbD 4
    let p := if re then evaluateObjects line s.ppu else { s.ppu with sec := [] }
    let c := s.cart
    ∃ fb : List (Nat × List Pixel), ∃ hit : Bool,
      (tick s).1 = { s with ppu := { p with
        fb := fb, spr0hit := p.spr0hit || hit, v := (if re then incY s.ppu.v else s.ppu.v), dot := 257 } }
      ∧ (∀ x : Nat, x < 256 → ∃ tag : BitVec 2,
          ({ p with fb := fb } : Ppu).pixel line x
            = some ⟨priorityColour p (bgPixel p c x) (objectPixel p c line x), tag⟩)
      ∧ (∀ y x : Nat, y ≠ line → ({ p with fb := fb } : Ppu).pixel y x = s.ppu.pixel y x)
      ∧ (hit = true ↔ ∃ x : Nat, x < 256 ∧ (bgPixel p c x).solid = true
          ∧ ∃ o, objectPixel p c line x = some o ∧ o.number = 0)

/-- Hidden and clipped pixels count as transparent: the layer off, or the leftmost 8 columns clipped; and with both layers off
a whole line is the universal background (R343, R345). -/
def Obligations.HiddenPixelsAreTransparent : Prop :=
  ∀ (p : Ppu) (c : Cartridge) (line x : Nat),
    ((p.mask.getLsbD 3 = false ∨ x < 8 ∧ p.mask.getLsbD 1 = false) → bgPixel p c x = ⟨false, 0⟩)
    ∧ ((p.mask.getLsbD 4 = false ∨ x < 8 ∧ p.mask.getLsbD 2 = false) → objectPixel p c line x = none)
    ∧ (p.mask.getLsbD 3 = false → p.mask.getLsbD 4 = false →
        (pixelAt p c line x).colour = p.pal.read 0 ∧ spriteZeroAt p c line x = false)

/-- The PPU shares no CPU state but the NMI request: any number of ticks leaves RAM, the cartridge, the fault mark, the
dispatcher's fields and every other CPU register alone, and of the PPU the registers and memories that only ports write (R440, R335). -/
def Obligations.TicksLeaveCpuAndMemoryAlone : Prop :=
  ∀ (n : Nat) (s : State),
    let t := (ppuStep n s).1
    t = { s with ppu := t.ppu, cpu := { s.cpu with nmiPending := t.cpu.nmiPending } }
    ∧ t.ppu.ctrl = s.ppu.ctrl ∧ t.ppu.mask = s.ppu.mask ∧ t.ppu.oamaddr = s.ppu.oamaddr ∧ t.ppu.t = s.ppu.t
    ∧ t.ppu.x = s.ppu.x ∧ t.ppu.w = s.ppu.w ∧ t.ppu.rdbuf = s.ppu.rdbuf ∧ t.ppu.oam = s.ppu.oam
    ∧ t.ppu.pal = s.ppu.pal ∧ t.ppu.ciram = s.ppu.ciram
    ∧ (s.cpu.nmiPending = true → t.cpu.nmiPending = true)
    ∧ (s.ppu.ctrl.getLsbD 7 = false → t.cpu.nmiPending = s.cpu.nmiPending)

/-! ### The dispatcher -/

/-- The stages of an iteration: the grant of 12 master ticks, and, when the CPU has no credit left, the PPU's dots, a
complete frame ending run_frame (R401 to R404); and what becomes of the frame buffer: the tick that completes a frame hands it
over as it stood and leaves no line of it listed, and a run_frame that returns a frame returns the one handed over (R345, R403,
R44). The cut of the loop into steps and the field that holds the handed-over frame are the model's (logs 7, 4 and 21). -/
def Obligations.DispatcherIteration : Prop :=
  (∀ s : State, s.running = true →
    (s.turn = .idle ∨ s.turn = .grant → step s = .next { s with
      acc := 0, turn := .cpu ((s.acc + 12) / 4)
      cpu := { s.cpu with credit := s.cpu.credit + (((s.acc + 12) / 12 : Nat) : Int) } })
    ∧ ∀ dots : Nat, s.turn = .cpu dots → s.cpu.credit ≤ 0 →
        step s = .next { (ppuStep dots s).1 with turn := if (ppuStep dots s).2 then .idle else .grant })
  ∧ (∀ s : State, (tick s).2 = true → (tick s).1.ppu.frame = s.ppu.fb ∧ (tick s).1.ppu.fb = [])
  ∧ ∀ (s t : State) (fb : List (Nat × List Pixel)), runFrame s = .frame fb t → fb = t.ppu.frame

/-- CPU time is never lost or made: the sum of `cycles` and `credit` changes only by what a grant adds, in every step, with
every instruction, NMI entry and OAM DMA (R402, R72, D25: total CPU time equals total grant). -/
def Obligations.CyclesPlusCreditIsTheGrant : Prop :=
  ∀ s t : State, step s = .next t →
    (t.cpu.cycles : Int) + t.cpu.credit
      = s.cpu.cycles + s.cpu.credit
        + match s.turn with
          | .idle | .grant => (((s.acc + 12) / 12 : Nat) : Int)
          | .cpu _ => 0

/-- run_frame always returns, with a frame or with the fault, and a returned frame leaves the position in its bounds (R406) and
has all of its 240 lines (90_conflicts C7, U9). -/
def Obligations.RunFrameTerminates : Prop :=
  ∀ s : State, s.wf = true → s.running = true → s.turn = .idle →
    (∃ fb t, runFrame s = .frame fb t ∧ t.ppu.dot < 341 ∧ t.ppu.scanline < 262
      ∧ ∀ y : Nat, y < 240 → ∃ px : List Pixel, (y, px) ∈ fb ∧ px.length = 256)
    ∨ ∃ f t, runFrame s = .fault f t

/-! ### Resets and the host's calls -/

/-- hard_reset: every register, the position and the accumulator at R460's values, the four power-up memories as given, PC
from the reset vector, the cartridge and the fault mark kept; the frame buffer is unspecified (R460, R462). A machine that has
just faulted is between calls too (log 12), and its mark stays (R30). -/
def Obligations.HardReset : Prop :=
  ∀ (i : PowerUp) (s : State), s.betweenFrames = true → s.boot ≠ .noCartridge →
    ∃ fb frame : List (Nat × List Pixel), hostHardReset i s = .ok { s with
      cpu := { a := 0x00#8, x := 0x00#8, y := 0x00#8, sp := 0xFD#8, pc := vectorWord s.cart 0x7FFC, p := 0x24#8,
               pendI := none, carryI := none, nmiPending := false, cycles := 0, credit := 0 }
      ram := i.ram
      ppu := { dot := 0, scanline := 0, odd := false, ctrl := 0x00#8, mask := 0x00#8, vblank := false,
               spr0hit := false, overflow := false, oamaddr := 0x00#8, v := 0#15, t := 0#15, x := 0#3, w := false,
               rdbuf := 0x00#8, oam := i.oam, sec := [], pal := i.pal, ciram := i.ciram, fb := fb, frame := frame }
      acc := 0, boot := .ready, turn := .idle }

/-- reset: SP minus 3, I set, the pending work dropped, PC from the reset vector, the PPU's ctrl, mask, x, w, t and buffer
cleared, everything else kept, the fault mark of a machine that has just faulted too (R461, R30, log 12). `sec` is kept as R461 and
decision D19 say, against R41 and R462 (log 17). -/
def Obligations.SoftReset : Prop :=
  ∀ s : State, s.betweenFrames = true → s.boot ≠ .noCartridge →
    hostReset s = .ok { s with
      cpu := { s.cpu with
        sp := BitVec.ofNat 8 (s.cpu.sp.toNat + 253), p := s.cpu.p ||| 0x04#8, pendI := none, carryI := none
        nmiPending := false, credit := 0, pc := vectorWord s.cart 0x7FFC }
      ppu := { s.ppu with
        ctrl := 0x00#8, mask := 0x00#8, x := 0#3, w := false, t := 0#15, rdbuf := 0x00#8 }
      acc := 0, turn := .idle }

/-- The preconditions of the host's calls: nothing but load without a cartridge, no run_frame before a hard_reset since the
load, and no call inside another; and what read and write do where they hold, on a faulted machine too: a bus read and a bus
write (R407, R464, R405). The names of the refusals, and the parity of a written $4014 that has no instruction, are the model's
(logs 9, 12 and 13). -/
def Obligations.HostCallPreconditions : Prop :=
  (∀ (s : State) (i : PowerUp) (l : LoadInit) (bs : List Byte) (a : Word) (v : Byte), s.fault = none →
    (s.boot = .noCartridge → step s = .refused .noCartridge
      ∧ (s.turn = .idle → hostHardReset i s = .error .noCartridge ∧ hostReset s = .error .noCartridge
        ∧ hostRead a s = .error .noCartridge ∧ hostWrite a v s = .error .noCartridge))
    ∧ (s.boot = .loaded → step s = .refused .runBeforeReset)
    ∧ (s.turn ≠ .idle → hostHardReset i s = .error .callInsideFrame ∧ hostReset s = .error .callInsideFrame
        ∧ hostRead a s = .error .callInsideFrame ∧ hostWrite a v s = .error .callInsideFrame
        ∧ hostLoad l bs s = .error .callInsideFrame ∧ runFrame s = .refused .callInsideFrame))
  ∧ ∀ (s : State) (a : Word) (v : Byte), s.betweenFrames = true → s.boot ≠ .noCartridge →
      hostRead a s = .ok (memRead a s) ∧ hostWrite a v s = .ok (memWrite 0 a v s)

/-- A well-formed container of 16 or 32 KB of PRG and 0 or 8 KB of CHR builds the NROM cartridge it describes; another mapper
number, another PRG or CHR size, bad magic bytes, or a file shorter or longer than its header declares builds none (R371, R379,
R380). Called between frames, load installs the cartridge it builds, so that a hard_reset is due, and changes nothing else; on an
error it gives no new state (R407). That the mapper number is looked at before the sizes, and the error of a refused size, are
the model's (logs 10 and 24). -/
def Obligations.LoadBuildsTheCartridge : Prop :=
  (∀ (init : LoadInit) (pages chrPages b6 b7 : Byte) (tail trainer prg chr : List Byte),
    tail.length = 8 → trainer.length = (if b6.getLsbD 2 then 512 else 0) →
    prg.length = 16384 * pages.toNat → chr.length = 8192 * chrPages.toNat →
    let bytes := [0x4E#8, 0x45#8, 0x53#8, 0x1A#8, pages, chrPages, b6, b7] ++ tail ++ trainer ++ prg ++ chr
    let mapper := b6.toNat / 16 + 16 * (b7.toNat / 16)
    let mirroring : Mirroring :=
      if b6.getLsbD 3 then .fourScreen else if b6.getLsbD 0 then .vertical else .horizontal
    (mapper = 0 → pages = 0x01#8 ∨ pages = 0x02#8 → chrPages = 0x00#8 ∨ chrPages = 0x01#8 →
      loadCartridge init bytes = .ok
        { mapper := .nrom, prgSize := if pages = 0x01#8 then .kb16 else .kb32, prg := Memory.ofList prg,
          chrKind := if chrPages = 0x00#8 then .ram else .rom, chr := Memory.ofList chr, mirroring := mirroring,
          hasSaveRam := b6.getLsbD 1, sram := if b6.getLsbD 1 then init.sram else [],
          fourRam := if mirroring = .fourScreen then init.fourRam else [] })
    ∧ (mapper ≠ 0 → loadCartridge init bytes = .error (.unsupportedMapper mapper))
    ∧ (mapper = 0 → pages ≠ 0x01#8 → pages ≠ 0x02#8 → loadCartridge init bytes = .error .unsupportedSize)
    ∧ (mapper = 0 → chrPages ≠ 0x00#8 → chrPages ≠ 0x01#8 → loadCartridge init bytes = .error .unsupportedSize)
    ∧ (∀ extra : List Byte, extra ≠ [] → loadCartridge init (bytes ++ extra) = .error .format)
    ∧ ∀ k : Nat, k < bytes.length → loadCartridge init (bytes.take k) = .error .format)
  ∧ (∀ (init : LoadInit) (bs : List Byte), bs.take 4 ≠ [0x4E#8, 0x45#8, 0x53#8, 0x1A#8] →
      loadCartridge init bs = .error .format)
  ∧ ∀ (init : LoadInit) (bs : List Byte) (s : State), s.betweenFrames = true →
      (∀ c, loadCartridge init bs = .ok c → hostLoad init bs s = .ok (.ok { s with cart := c, boot := .loaded }))
      ∧ ∀ e, loadCartridge init bs = .error e → hostLoad init bs s = .ok (.error e)

/-! ### Invariants -/

/-- The state after a hard reset is well formed. -/
def Obligations.ResetStateIsWellFormed : Prop := State.reset.wf = true

/-- Every step keeps well-formedness: P's bit 5 reads 1 and its bit 4 reads 0, the position and the object buffer stay in
bounds, every storage array stays canonical and within its size, no value stays carried, and the frame buffer holds exactly the
lines the current frame has rendered (R24, R32, R41, R44, R46, R349). -/
def Obligations.StepKeepsTheStateWellFormed : Prop :=
  ∀ s t : State, s.wf = true → step s = .next t → t.wf = true

/-- No step changes what is fixed at load: PRG-ROM, CHR-ROM, the mirroring, the sizes and kinds (R46, R373, R374). -/
def Obligations.RomIsImmutable : Prop :=
  ∀ s t : State, step s = .next t →
    t.cart.prg = s.cart.prg ∧ t.cart.prgSize = s.cart.prgSize ∧ t.cart.mapper = s.cart.mapper
    ∧ t.cart.mirroring = s.cart.mirroring ∧ t.cart.chrKind = s.cart.chrKind
    ∧ t.cart.hasSaveRam = s.cart.hasSaveRam
    ∧ (s.cart.chrKind = .rom → t.cart.chr = s.cart.chr)
end

