-- ==== Sys2Proof/Laws/Bits.lean ====
section
/-! SUPPORT. What writing a field leaves and changes, bit by bit, and the flags of P after each flag update. -/

namespace Sys2Proof.Machine

/-- A written field, bit by bit. -/
theorem getLsbD_putBits {n len : Nat} (r : BitVec n) (lo : Nat) (f : BitVec len) (i : Nat) :
    (putBits r lo f).getLsbD i
      = if lo ≤ i ∧ i < lo + len ∧ i < n then f.getLsbD (i - lo) else r.getLsbD i := by
  unfold putBits
  simp only [BitVec.getLsbD_or, BitVec.getLsbD_and, BitVec.getLsbD_not, BitVec.getLsbD_shiftLeft,
    BitVec.getLsbD_setWidth, BitVec.getLsbD_allOnes]
  by_cases hn : i < n
  · by_cases hl : lo ≤ i
    · by_cases hlen : i < lo + len
      · have h1 : i - lo < len := by omega
        have h2 : i - lo < n := by omega
        simp [hn, hl, hlen, h1, h2, Nat.not_lt.mpr hl]
      · have h1 : ¬ i - lo < len := by omega
        simp [hn, hl, hlen, h1, BitVec.getLsbD_of_ge f (i - lo) (by omega)]
    · simp [hn, hl, Nat.lt_of_not_le hl]
  · have := BitVec.getLsbD_of_ge r i (by omega)
    simp [hn, this]

/-- A written bit. -/
theorem getLsbD_putBit {n : Nat} (r : BitVec n) (i : Nat) (b : Bool) (j : Nat) (hi : i < n) :
    (putBit r i b).getLsbD j = if j = i then b else r.getLsbD j := by
  unfold putBit
  rw [getLsbD_putBits]
  by_cases h : j = i
  · subst h; simp [hi]
  · have : ¬ (i ≤ j ∧ j < i + 1 ∧ j < n) := by omega
    rw [if_neg this, if_neg h]

theorem getLsbD_setC (b : Bool) (p : Byte) (j : Nat) :
    (setC b p).getLsbD j = if j = 0 then b else p.getLsbD j := getLsbD_putBit p 0 b j (by omega)
theorem getLsbD_setZ (b : Bool) (p : Byte) (j : Nat) :
    (setZ b p).getLsbD j = if j = 1 then b else p.getLsbD j := getLsbD_putBit p 1 b j (by omega)
theorem getLsbD_setI (b : Bool) (p : Byte) (j : Nat) :
    (setI b p).getLsbD j = if j = 2 then b else p.getLsbD j := getLsbD_putBit p 2 b j (by omega)
theorem getLsbD_setD (b : Bool) (p : Byte) (j : Nat) :
    (setD b p).getLsbD j = if j = 3 then b else p.getLsbD j := getLsbD_putBit p 3 b j (by omega)
theorem getLsbD_setV (b : Bool) (p : Byte) (j : Nat) :
    (setV b p).getLsbD j = if j = 6 then b else p.getLsbD j := getLsbD_putBit p 6 b j (by omega)
theorem getLsbD_setN (b : Bool) (p : Byte) (j : Nat) :
    (setN b p).getLsbD j = if j = 7 then b else p.getLsbD j := getLsbD_putBit p 7 b j (by omega)

/-- SetZN, bit by bit (R13). -/
theorem getLsbD_setZN (r p : Byte) (j : Nat) :
    (setZN r p).getLsbD j
      = if j = 7 then r.getLsbD 7 else if j = 1 then r == 0#8 else p.getLsbD j := by
  unfold setZN
  rw [getLsbD_setN, getLsbD_setZ]

/-- Two bytes are equal when their eight bits are. -/
theorem byte_ext {a b : Byte} (h : ∀ i, i < 8 → a.getLsbD i = b.getLsbD i) : a = b :=
  BitVec.eq_of_getLsbD_eq h

/-- SetZN as masks: Z and N cleared, then set from the result. -/
theorem setZN_eq_mask (r p : Byte) :
    setZN r p = (p &&& 0x7D#8) ||| (if r = 0#8 then 0x02#8 else 0x00#8) ||| (r &&& 0x80#8) := by
  apply byte_ext
  intro i hi
  rw [getLsbD_setZN]
  have hz : (r == 0#8) = decide (r = 0#8) := rfl
  rw [hz]
  by_cases h : r = 0#8
  · subst h
    interval_cases i <;> simp
  · interval_cases i <;> simp [h]

/-- A word is its two bytes. -/
theorem wordOf_lo_hi (w : Word) : wordOf (loByte w) (hiByte w) = w := by
  apply BitVec.eq_of_toNat_eq
  have hw := w.isLt
  simp only [wordOf, loByte, hiByte, BitVec.toNat_append, BitVec.extractLsb'_toNat, Nat.shiftRight_zero]
  rw [← Nat.shiftLeft_add_eq_or_of_lt (by omega), Nat.shiftLeft_eq, Nat.shiftRight_eq_div_pow]
  omega

theorem loByte_wordOf (lo hi : Byte) : loByte (wordOf lo hi) = lo := by
  apply BitVec.eq_of_toNat_eq
  have h1 := lo.isLt
  have h2 := hi.isLt
  simp only [wordOf, loByte, BitVec.toNat_append, BitVec.extractLsb'_toNat, Nat.shiftRight_zero]
  rw [← Nat.shiftLeft_add_eq_or_of_lt (by omega), Nat.shiftLeft_eq]
  omega

theorem hiByte_wordOf (lo hi : Byte) : hiByte (wordOf lo hi) = hi := by
  apply BitVec.eq_of_toNat_eq
  have h1 := lo.isLt
  have h2 := hi.isLt
  simp only [wordOf, hiByte, BitVec.toNat_append, BitVec.extractLsb'_toNat]
  rw [← Nat.shiftLeft_add_eq_or_of_lt (by omega), Nat.shiftLeft_eq, Nat.shiftRight_eq_div_pow]
  omega

theorem toNat_wordOf (lo hi : Byte) : (wordOf lo hi).toNat = lo.toNat + 256 * hi.toNat := by
  have h1 := lo.isLt
  simp only [wordOf, BitVec.toNat_append]
  rw [← Nat.shiftLeft_add_eq_or_of_lt (by omega), Nat.shiftLeft_eq]
  omega

theorem toNat_zext16 (n : Byte) : (zext16 n).toNat = n.toNat := by
  have := n.isLt
  simp only [zext16, BitVec.toNat_setWidth]
  omega

end Sys2Proof.Machine
end

