-- ==== Sys2Proof/Laws/Memory.lean ====
section
/-! SUPPORT. The laws of a storage array: a read after a write, the canonical form kept, and equal reads of two canonical
arrays make them equal. -/

namespace Sys2Proof.Machine

variable {w : Nat}

/-- Below the first listed index an array in canonical form reads 0. -/
theorem Memory.read_of_lt {size lo : Nat} {m : Memory w} (h : Memory.wfFrom size lo m = true) {a : Nat}
    (ha : a < lo) : m.read a = 0#w := by
  induction m generalizing lo with
  | nil => rfl
  | cons e m ih =>
    obtain ⟨k, v⟩ := e
    simp only [Memory.wfFrom, Bool.and_eq_true, decide_eq_true_eq] at h
    have hk : ¬ k = a := by omega
    simp only [Memory.read, hk, if_false]
    exact ih h.2 (by omega)

/-- The canonical form from `lo` on is one from any lower index on. -/
theorem Memory.wfFrom_mono {size lo lo' : Nat} {m : Memory w} (h : Memory.wfFrom size lo m = true)
    (hl : lo' ≤ lo) : Memory.wfFrom size lo' m = true := by
  cases m with
  | nil => rfl
  | cons e m =>
    obtain ⟨k, v⟩ := e
    simp only [Memory.wfFrom, Bool.and_eq_true, decide_eq_true_eq] at h ⊢
    exact ⟨⟨⟨by omega, h.1.1.2⟩, h.1.2⟩, h.2⟩

/-- A read after a write, in any array in canonical form. -/
theorem Memory.read_write {size lo : Nat} {m : Memory w} (h : Memory.wfFrom size lo m = true) (a b : Nat)
    (v : BitVec w) : (m.write a v).read b = if b = a then v else m.read b := by
  induction m generalizing lo with
  | nil =>
    by_cases hv : v = 0#w
    · subst hv; by_cases hb : b = a <;> simp [Memory.write, Memory.read]
    · by_cases hb : b = a
      · simp [Memory.write, hv, Memory.read, hb]
      · have : ¬ a = b := fun h => hb h.symm
        simp [Memory.write, hv, Memory.read, hb, this]
  | cons e m ih =>
    obtain ⟨k, u⟩ := e
    simp only [Memory.wfFrom, Bool.and_eq_true, decide_eq_true_eq] at h
    have h0 := Memory.read_of_lt h.2 (a := a)
    unfold Memory.write
    by_cases hak : a < k
    · simp only [hak, if_true]
      have hka : ¬ k = a := by omega
      by_cases hv : v = 0#w
      · simp only [hv, if_true]
        by_cases hb : b = a
        · simp only [hb, if_true, Memory.read, hka, if_false]
          exact h0 (by omega)
        · simp [hb]
      · simp only [hv, if_false]
        by_cases hb : b = a
        · simp [hb, Memory.read]
        · have : ¬ a = b := fun h => hb h.symm
          simp [hb, Memory.read, this]
    · simp only [hak, if_false]
      by_cases hek : a = k
      · subst hek
        simp only [if_true]
        by_cases hv : v = 0#w
        · simp only [hv, if_true]
          by_cases hb : b = a
          · simp only [hb, if_true]
            exact h0 (by omega)
          · have : ¬ a = b := fun h => hb h.symm
            simp [hb, Memory.read, this]
        · simp only [hv, if_false]
          by_cases hb : b = a
          · simp [hb, Memory.read]
          · have : ¬ a = b := fun h => hb h.symm
            simp [hb, Memory.read, this]
      · simp only [hek, if_false, Memory.read]
        by_cases hkb : k = b
        · have : ¬ b = a := by omega
          simp [hkb, this]
        · simp only [hkb, if_false]
          exact ih h.2

/-- A write leaves every other index alone, in any array. -/
theorem Memory.read_write_ne (m : Memory w) {a b : Nat} (v : BitVec w) (h : b ≠ a) :
    (m.write a v).read b = m.read b := by
  induction m with
  | nil =>
    have h' : ¬ a = b := fun e => h e.symm
    unfold Memory.write
    split
    · rfl
    · simp [Memory.read, h']
  | cons e m ih =>
    obtain ⟨k, u⟩ := e
    have h' : ¬ a = b := fun e => h e.symm
    unfold Memory.write
    split
    · split
      · rfl
      · simp [Memory.read, h']
    · split
      · rename_i hk
        subst hk
        split <;> simp [Memory.read, h']
      · simp [Memory.read, ih]

/-- A write keeps the canonical form. -/
theorem Memory.wfFrom_write {size lo : Nat} {m : Memory w} (h : Memory.wfFrom size lo m = true) {a : Nat}
    (hl : lo ≤ a) (ha : a < size) (v : BitVec w) : Memory.wfFrom size lo (m.write a v) = true := by
  induction m generalizing lo with
  | nil =>
    by_cases hv : v = 0#w
    · simp [Memory.write, hv, Memory.wfFrom]
    · simp [Memory.write, hv, Memory.wfFrom, hl, ha]
  | cons e m ih =>
    obtain ⟨k, u⟩ := e
    have h' := h
    simp only [Memory.wfFrom, Bool.and_eq_true, decide_eq_true_eq] at h
    unfold Memory.write
    by_cases hak : a < k
    · simp only [hak, if_true]
      by_cases hv : v = 0#w
      · simpa only [hv, if_true] using h'
      · simp only [hv, if_false, Memory.wfFrom, Bool.and_eq_true, decide_eq_true_eq]
        exact ⟨⟨⟨hl, ha⟩, by simpa using hv⟩, ⟨⟨by omega, h.1.1.2⟩, h.1.2⟩, h.2⟩
    · simp only [hak, if_false]
      by_cases hek : a = k
      · subst hek
        by_cases hv : v = 0#w
        · simp only [hv, if_true]
          exact Memory.wfFrom_mono h.2 (by omega)
        · simp only [hv, if_false, if_true, Memory.wfFrom, Bool.and_eq_true, decide_eq_true_eq]
          exact ⟨⟨⟨hl, ha⟩, by simpa using hv⟩, h.2⟩
      · simp only [hek, if_false, Memory.wfFrom, Bool.and_eq_true, decide_eq_true_eq]
        exact ⟨⟨h.1.1, h.1.2⟩, ih h.2 (by omega)⟩

/-- A write keeps the canonical form of an array of `size` cells. -/
theorem Memory.wf_write {size : Nat} {m : Memory w} (h : m.wf size = true) {a : Nat} (ha : a < size)
    (v : BitVec w) : (m.write a v).wf size = true := Memory.wfFrom_write h (Nat.zero_le a) ha v

/-- A read after a write, in an array of `size` cells. -/
theorem Memory.read_write_wf {size : Nat} {m : Memory w} (h : m.wf size = true) (a b : Nat) (v : BitVec w) :
    (m.write a v).read b = if b = a then v else m.read b := Memory.read_write h a b v

/-- A write outside the palette's four mirrored indices keeps what the palette's form says beside the canonical form. -/
theorem Memory.all_write {m : Memory w} {f : Nat × BitVec w → Bool} (h : m.all f = true) {a : Nat} {v : BitVec w}
    (ha : f (a, v) = true) : (m.write a v).all f = true := by
  induction m with
  | nil =>
    unfold Memory.write
    split
    · rfl
    · simp [ha]
  | cons e m ih =>
    obtain ⟨k, u⟩ := e
    simp only [List.all_cons, Bool.and_eq_true] at h
    unfold Memory.write
    split
    · split
      · simp only [List.all_cons, Bool.and_eq_true]
        exact h
      · simp only [List.all_cons, Bool.and_eq_true]
        exact ⟨ha, h⟩
    · split
      · split
        · exact h.2
        · simp only [List.all_cons, Bool.and_eq_true]
          exact ⟨ha, h.2⟩
      · simp only [List.all_cons, Bool.and_eq_true]
        exact ⟨h.1, ih h.2⟩

/-- An array built from values is in canonical form. -/
theorem Memory.wfFrom_ofListFrom (vs : List (BitVec w)) (size k lo : Nat) (hl : lo ≤ k)
    (h : k + vs.length ≤ size) : Memory.wfFrom size lo (Memory.ofListFrom k vs) = true := by
  induction vs generalizing k lo with
  | nil => rfl
  | cons v vs ih =>
    simp only [List.length_cons] at h
    unfold Memory.ofListFrom
    by_cases hv : v = 0#w
    · simp only [hv, if_true]
      exact ih (k + 1) lo (by omega) (by omega)
    · simp only [hv, if_false, Memory.wfFrom, Bool.and_eq_true, decide_eq_true_eq]
      exact ⟨⟨⟨hl, by omega⟩, by simpa using hv⟩, ih (k + 1) (k + 1) (Nat.le_refl _) (by omega)⟩

/-- Two arrays in canonical form that read alike everywhere are equal. -/
theorem Memory.ext_of_read {size lo : Nat} {m m' : Memory w} (h : Memory.wfFrom size lo m = true)
    (h' : Memory.wfFrom size lo m' = true) (hr : ∀ a, m.read a = m'.read a) : m = m' := by
  induction m generalizing lo m' with
  | nil =>
    cases m' with
    | nil => rfl
    | cons e t =>
      obtain ⟨k, v⟩ := e
      simp only [Memory.wfFrom, Bool.and_eq_true, bne_iff_ne, ne_eq] at h'
      have := hr k
      simp only [Memory.read, if_true] at this
      exact absurd this.symm h'.1.2
  | cons e t ih =>
    obtain ⟨k, v⟩ := e
    have hw := h
    simp only [Memory.wfFrom, Bool.and_eq_true, decide_eq_true_eq, bne_iff_ne, ne_eq] at h
    cases m' with
    | nil =>
      have := hr k
      simp only [Memory.read, if_true] at this
      exact absurd this h.1.2
    | cons e' t' =>
      obtain ⟨k', v'⟩ := e'
      have hw' := h'
      simp only [Memory.wfFrom, Bool.and_eq_true, decide_eq_true_eq, bne_iff_ne, ne_eq] at h'
      have hkk : k = k' := by
        rcases Nat.lt_trichotomy k k' with hlt | heq | hgt
        · have h1 := hr k
          have h2 : ¬ k' = k := by omega
          simp only [Memory.read, if_true, h2, if_false] at h1
          rw [Memory.read_of_lt h'.2 (by omega)] at h1
          exact absurd h1 h.1.2
        · exact heq
        · have h1 := hr k'
          have h2 : ¬ k = k' := by omega
          simp only [Memory.read, if_true, h2, if_false] at h1
          rw [Memory.read_of_lt h.2 (by omega)] at h1
          exact absurd h1.symm h'.1.2
      subst hkk
      have hv : v = v' := by simpa [Memory.read] using hr k
      subst hv
      have ht : t = t' := ih h.2 h'.2 (fun a => by
        by_cases ha : k = a
        · subst ha
          rw [Memory.read_of_lt h.2 (by omega), Memory.read_of_lt h'.2 (by omega)]
        · simpa [Memory.read, ha] using hr a)
      rw [ht]

end Sys2Proof.Machine
end

