-- ==== Sys2Proof/Laws/State.lean ====
section
/-! SUPPORT. One lemma per field of the state per update, true by rfl, and the same for the shared updates of the CPU. -/

namespace Sys2Proof.Machine

variable (s : State)

@[simp] theorem setCpu_cpu (c : Cpu) : (s.setCpu c).cpu = c := rfl
@[simp] theorem setCpu_ram (c : Cpu) : (s.setCpu c).ram = s.ram := rfl
@[simp] theorem setCpu_ppu (c : Cpu) : (s.setCpu c).ppu = s.ppu := rfl
@[simp] theorem setCpu_cart (c : Cpu) : (s.setCpu c).cart = s.cart := rfl
@[simp] theorem setCpu_acc (c : Cpu) : (s.setCpu c).acc = s.acc := rfl
@[simp] theorem setCpu_fault (c : Cpu) : (s.setCpu c).fault = s.fault := rfl
@[simp] theorem setCpu_boot (c : Cpu) : (s.setCpu c).boot = s.boot := rfl
@[simp] theorem setCpu_turn (c : Cpu) : (s.setCpu c).turn = s.turn := rfl
@[simp] theorem setCpu_draws (c : Cpu) : (s.setCpu c).draws = s.draws := rfl

@[simp] theorem setRam_cpu (m : Memory 8) : (s.setRam m).cpu = s.cpu := rfl
@[simp] theorem setRam_ram (m : Memory 8) : (s.setRam m).ram = m := rfl
@[simp] theorem setRam_ppu (m : Memory 8) : (s.setRam m).ppu = s.ppu := rfl
@[simp] theorem setRam_cart (m : Memory 8) : (s.setRam m).cart = s.cart := rfl
@[simp] theorem setRam_acc (m : Memory 8) : (s.setRam m).acc = s.acc := rfl
@[simp] theorem setRam_fault (m : Memory 8) : (s.setRam m).fault = s.fault := rfl
@[simp] theorem setRam_boot (m : Memory 8) : (s.setRam m).boot = s.boot := rfl
@[simp] theorem setRam_turn (m : Memory 8) : (s.setRam m).turn = s.turn := rfl
@[simp] theorem setRam_draws (m : Memory 8) : (s.setRam m).draws = s.draws := rfl

@[simp] theorem setPpu_cpu (p : Ppu) : (s.setPpu p).cpu = s.cpu := rfl
@[simp] theorem setPpu_ram (p : Ppu) : (s.setPpu p).ram = s.ram := rfl
@[simp] theorem setPpu_ppu (p : Ppu) : (s.setPpu p).ppu = p := rfl
@[simp] theorem setPpu_cart (p : Ppu) : (s.setPpu p).cart = s.cart := rfl
@[simp] theorem setPpu_acc (p : Ppu) : (s.setPpu p).acc = s.acc := rfl
@[simp] theorem setPpu_fault (p : Ppu) : (s.setPpu p).fault = s.fault := rfl
@[simp] theorem setPpu_boot (p : Ppu) : (s.setPpu p).boot = s.boot := rfl
@[simp] theorem setPpu_turn (p : Ppu) : (s.setPpu p).turn = s.turn := rfl
@[simp] theorem setPpu_draws (p : Ppu) : (s.setPpu p).draws = s.draws := rfl

@[simp] theorem setCart_cpu (c : Cartridge) : (s.setCart c).cpu = s.cpu := rfl
@[simp] theorem setCart_ram (c : Cartridge) : (s.setCart c).ram = s.ram := rfl
@[simp] theorem setCart_ppu (c : Cartridge) : (s.setCart c).ppu = s.ppu := rfl
@[simp] theorem setCart_cart (c : Cartridge) : (s.setCart c).cart = c := rfl
@[simp] theorem setCart_acc (c : Cartridge) : (s.setCart c).acc = s.acc := rfl
@[simp] theorem setCart_fault (c : Cartridge) : (s.setCart c).fault = s.fault := rfl
@[simp] theorem setCart_boot (c : Cartridge) : (s.setCart c).boot = s.boot := rfl
@[simp] theorem setCart_turn (c : Cartridge) : (s.setCart c).turn = s.turn := rfl
@[simp] theorem setCart_draws (c : Cartridge) : (s.setCart c).draws = s.draws := rfl

@[simp] theorem setAcc_cpu (n : Nat) : (s.setAcc n).cpu = s.cpu := rfl
@[simp] theorem setAcc_ram (n : Nat) : (s.setAcc n).ram = s.ram := rfl
@[simp] theorem setAcc_ppu (n : Nat) : (s.setAcc n).ppu = s.ppu := rfl
@[simp] theorem setAcc_cart (n : Nat) : (s.setAcc n).cart = s.cart := rfl
@[simp] theorem setAcc_acc (n : Nat) : (s.setAcc n).acc = n := rfl
@[simp] theorem setAcc_fault (n : Nat) : (s.setAcc n).fault = s.fault := rfl
@[simp] theorem setAcc_boot (n : Nat) : (s.setAcc n).boot = s.boot := rfl
@[simp] theorem setAcc_turn (n : Nat) : (s.setAcc n).turn = s.turn := rfl
@[simp] theorem setAcc_draws (n : Nat) : (s.setAcc n).draws = s.draws := rfl

@[simp] theorem setFault_cpu (f : Option Fault) : (s.setFault f).cpu = s.cpu := rfl
@[simp] theorem setFault_ram (f : Option Fault) : (s.setFault f).ram = s.ram := rfl
@[simp] theorem setFault_ppu (f : Option Fault) : (s.setFault f).ppu = s.ppu := rfl
@[simp] theorem setFault_cart (f : Option Fault) : (s.setFault f).cart = s.cart := rfl
@[simp] theorem setFault_acc (f : Option Fault) : (s.setFault f).acc = s.acc := rfl
@[simp] theorem setFault_fault (f : Option Fault) : (s.setFault f).fault = f := rfl
@[simp] theorem setFault_boot (f : Option Fault) : (s.setFault f).boot = s.boot := rfl
@[simp] theorem setFault_turn (f : Option Fault) : (s.setFault f).turn = s.turn := rfl
@[simp] theorem setFault_draws (f : Option Fault) : (s.setFault f).draws = s.draws := rfl

@[simp] theorem setBoot_cpu (b : Boot) : (s.setBoot b).cpu = s.cpu := rfl
@[simp] theorem setBoot_ram (b : Boot) : (s.setBoot b).ram = s.ram := rfl
@[simp] theorem setBoot_ppu (b : Boot) : (s.setBoot b).ppu = s.ppu := rfl
@[simp] theorem setBoot_cart (b : Boot) : (s.setBoot b).cart = s.cart := rfl
@[simp] theorem setBoot_acc (b : Boot) : (s.setBoot b).acc = s.acc := rfl
@[simp] theorem setBoot_fault (b : Boot) : (s.setBoot b).fault = s.fault := rfl
@[simp] theorem setBoot_boot (b : Boot) : (s.setBoot b).boot = b := rfl
@[simp] theorem setBoot_turn (b : Boot) : (s.setBoot b).turn = s.turn := rfl
@[simp] theorem setBoot_draws (b : Boot) : (s.setBoot b).draws = s.draws := rfl

@[simp] theorem setTurn_cpu (t : Turn) : (s.setTurn t).cpu = s.cpu := rfl
@[simp] theorem setTurn_ram (t : Turn) : (s.setTurn t).ram = s.ram := rfl
@[simp] theorem setTurn_ppu (t : Turn) : (s.setTurn t).ppu = s.ppu := rfl
@[simp] theorem setTurn_cart (t : Turn) : (s.setTurn t).cart = s.cart := rfl
@[simp] theorem setTurn_acc (t : Turn) : (s.setTurn t).acc = s.acc := rfl
@[simp] theorem setTurn_fault (t : Turn) : (s.setTurn t).fault = s.fault := rfl
@[simp] theorem setTurn_boot (t : Turn) : (s.setTurn t).boot = s.boot := rfl
@[simp] theorem setTurn_turn (t : Turn) : (s.setTurn t).turn = t := rfl
@[simp] theorem setTurn_draws (t : Turn) : (s.setTurn t).draws = s.draws := rfl

@[simp] theorem setDraws_cpu (n : Nat) : (s.setDraws n).cpu = s.cpu := rfl
@[simp] theorem setDraws_ram (n : Nat) : (s.setDraws n).ram = s.ram := rfl
@[simp] theorem setDraws_ppu (n : Nat) : (s.setDraws n).ppu = s.ppu := rfl
@[simp] theorem setDraws_cart (n : Nat) : (s.setDraws n).cart = s.cart := rfl
@[simp] theorem setDraws_acc (n : Nat) : (s.setDraws n).acc = s.acc := rfl
@[simp] theorem setDraws_fault (n : Nat) : (s.setDraws n).fault = s.fault := rfl
@[simp] theorem setDraws_boot (n : Nat) : (s.setDraws n).boot = s.boot := rfl
@[simp] theorem setDraws_turn (n : Nat) : (s.setDraws n).turn = s.turn := rfl
@[simp] theorem setDraws_draws (n : Nat) : (s.setDraws n).draws = n := rfl

variable (c : Cpu)

@[simp] theorem cpu_charge_a (n : Nat) : (c.charge n).a = c.a := rfl
@[simp] theorem cpu_charge_x (n : Nat) : (c.charge n).x = c.x := rfl
@[simp] theorem cpu_charge_y (n : Nat) : (c.charge n).y = c.y := rfl
@[simp] theorem cpu_charge_sp (n : Nat) : (c.charge n).sp = c.sp := rfl
@[simp] theorem cpu_charge_pc (n : Nat) : (c.charge n).pc = c.pc := rfl
@[simp] theorem cpu_charge_p (n : Nat) : (c.charge n).p = c.p := rfl
@[simp] theorem cpu_charge_pendI (n : Nat) : (c.charge n).pendI = c.pendI := rfl
@[simp] theorem cpu_charge_carryI (n : Nat) : (c.charge n).carryI = c.carryI := rfl
@[simp] theorem cpu_charge_nmiPending (n : Nat) : (c.charge n).nmiPending = c.nmiPending := rfl
@[simp] theorem cpu_charge_cycles (n : Nat) : (c.charge n).cycles = c.cycles + n := rfl
@[simp] theorem cpu_charge_credit (n : Nat) : (c.charge n).credit = c.credit - n := rfl

@[simp] theorem takeSlot_a : c.takeSlot.a = c.a := rfl
@[simp] theorem takeSlot_x : c.takeSlot.x = c.x := rfl
@[simp] theorem takeSlot_y : c.takeSlot.y = c.y := rfl
@[simp] theorem takeSlot_sp : c.takeSlot.sp = c.sp := rfl
@[simp] theorem takeSlot_pc : c.takeSlot.pc = c.pc := rfl
@[simp] theorem takeSlot_p : c.takeSlot.p = c.p := rfl
@[simp] theorem takeSlot_pendI : c.takeSlot.pendI = none := rfl
@[simp] theorem takeSlot_carryI : c.takeSlot.carryI = c.pendI := rfl
@[simp] theorem takeSlot_nmiPending : c.takeSlot.nmiPending = c.nmiPending := rfl
@[simp] theorem takeSlot_cycles : c.takeSlot.cycles = c.cycles := rfl
@[simp] theorem takeSlot_credit : c.takeSlot.credit = c.credit := rfl

@[simp] theorem charge_cpu (n : Nat) : (s.charge n).cpu = s.cpu.charge n := rfl
@[simp] theorem charge_ram (n : Nat) : (s.charge n).ram = s.ram := rfl
@[simp] theorem charge_ppu (n : Nat) : (s.charge n).ppu = s.ppu := rfl
@[simp] theorem charge_cart (n : Nat) : (s.charge n).cart = s.cart := rfl
@[simp] theorem charge_acc (n : Nat) : (s.charge n).acc = s.acc := rfl
@[simp] theorem charge_fault (n : Nat) : (s.charge n).fault = s.fault := rfl
@[simp] theorem charge_boot (n : Nat) : (s.charge n).boot = s.boot := rfl
@[simp] theorem charge_turn (n : Nat) : (s.charge n).turn = s.turn := rfl
@[simp] theorem charge_draws (n : Nat) : (s.charge n).draws = s.draws := rfl

end Sys2Proof.Machine
end

