-- ==== Sys2Proof/Laws/Ops.lean ====
section
/-! SUPPORT. What each shared operation over the bus, the stack and the operands can do, said once. -/

namespace Sys2Proof.Machine

/-! ### The decoder -/

theorem regionOf_ram {a : Word} (h : a.toNat < 0x2000) : regionOf a = .ram (a.toNat % 0x800) := by
  simp [regionOf, h]

theorem regionOf_prgHigh {a : Word} (h : 0xC000 ≤ a.toNat) : regionOf a = .prgHigh (a.toNat - 0x8000) := by
  unfold regionOf
  have h1 : ¬ a.toNat < 0x2000 := by omega
  have h2 : ¬ a.toNat < 0x4000 := by omega
  have h3 : ¬ a.toNat < 0x4014 := by omega
  have h4 : ¬ a.toNat = 0x4014 := by omega
  have h5 : ¬ a.toNat = 0x4015 := by omega
  have h6 : ¬ a.toNat < 0x4018 := by omega
  have h7 : ¬ a.toNat < 0x6000 := by omega
  have h8 : ¬ a.toNat < 0x8000 := by omega
  have h9 : ¬ a.toNat < 0xC000 := by omega
  simp [h1, h2, h3, h4, h5, h6, h7, h8, h9]

theorem regionOf_zext16 (n : Byte) : regionOf (zext16 n) = .ram n.toNat := by
  have := n.isLt
  rw [regionOf_ram (by rw [toNat_zext16]; omega), toNat_zext16, Nat.mod_eq_of_lt (by omega)]

theorem toNat_stackAddr (sp : Byte) : (stackAddr sp).toNat = 0x100 + sp.toNat := by
  have := sp.isLt
  simp only [stackAddr, BitVec.toNat_add, toNat_zext16, BitVec.toNat_ofNat]
  omega

theorem regionOf_stackAddr (sp : Byte) : regionOf (stackAddr sp) = .ram (0x100 + sp.toNat) := by
  have := sp.isLt
  rw [regionOf_ram (by rw [toNat_stackAddr]; omega), toNat_stackAddr, Nat.mod_eq_of_lt (by omega)]

/-! ### Reads -/

/-- A read changes at most the PPU and the count of draws. -/
theorem memRead_state (a : Word) (s : State) :
    (memRead a s).2 = (s.setPpu (memRead a s).2.ppu).setDraws (memRead a s).2.draws := by
  unfold memRead
  generalize regionOf a = g
  cases g
  case port r => cases r <;> rfl
  all_goals rfl

@[simp] theorem memRead_cpu (a : Word) (s : State) : (memRead a s).2.cpu = s.cpu := by
  rw [memRead_state]; rfl
@[simp] theorem memRead_ram (a : Word) (s : State) : (memRead a s).2.ram = s.ram := by
  rw [memRead_state]; rfl
@[simp] theorem memRead_cart (a : Word) (s : State) : (memRead a s).2.cart = s.cart := by
  rw [memRead_state]; rfl
@[simp] theorem memRead_acc (a : Word) (s : State) : (memRead a s).2.acc = s.acc := by
  rw [memRead_state]; rfl
@[simp] theorem memRead_fault (a : Word) (s : State) : (memRead a s).2.fault = s.fault := by
  rw [memRead_state]; rfl
@[simp] theorem memRead_boot (a : Word) (s : State) : (memRead a s).2.boot = s.boot := by
  rw [memRead_state]; rfl
@[simp] theorem memRead_turn (a : Word) (s : State) : (memRead a s).2.turn = s.turn := by
  rw [memRead_state]; rfl

/-- A read does not look at the CPU: with another CPU in the state it gives the same byte and the same side effects (R61). -/
theorem memRead_withCpu (a : Word) (c : Cpu) (s : State) :
    memRead a { s with cpu := c } = ((memRead a s).1, { (memRead a s).2 with cpu := c }) := by
  unfold memRead
  cases regionOf a with
  | port r => cases r <;> rfl
  | _ => rfl

/-- What a read may change in the PPU: `vblank` and `w` (a status read), `rdbuf` and `v` (a data read), nothing else (R73). -/
theorem memRead_ppu (a : Word) (s : State) :
    (memRead a s).2.ppu = s.ppu ∨
    (memRead a s).2.ppu = { s.ppu with vblank := false, w := false } ∨
    ∃ b, (memRead a s).2.ppu = { s.ppu with rdbuf := b, v := s.ppu.v + s.ppu.vramInc } := by
  unfold memRead
  generalize regionOf a = g
  cases g
  case port r =>
    cases r
    case status => exact .inr (.inl rfl)
    case data =>
      refine .inr (.inr ?_)
      simp only [portRead, setPpu_ppu, vramRead]
      split
      · exact ⟨_, rfl⟩
      · exact ⟨_, rfl⟩
    all_goals exact .inl rfl
  all_goals exact .inl rfl

/-- Where a plain byte is stored, reading it gives that byte and changes nothing. -/
theorem memRead_of_peek {a : Word} {s : State} {b : Byte} (h : peek s a = some b) : memRead a s = (b, s) := by
  unfold peek at h
  unfold memRead
  split at h <;> rename_i hr <;> simp_all

theorem memRead_zext16 (n : Byte) (s : State) : memRead (zext16 n) s = (s.ram.read n.toNat, s) := by
  simp [memRead, regionOf_zext16]

theorem memRead_stackAddr (sp : Byte) (s : State) :
    memRead (stackAddr sp) s = (s.ram.read (0x100 + sp.toNat), s) := by
  simp [memRead, regionOf_stackAddr]

/-- The vectors lie in the PRG high window, so reading one changes nothing (R80). -/
theorem read16_vector {a : Word} (h : 0xC000 ≤ a.toNat) (h' : a.toNat < 0xFFFF) (s : State) :
    read16 a s
      = (wordOf (s.cart.readPrg (a.toNat - 0x8000)) (s.cart.readPrg (a.toNat + 1 - 0x8000)), s) := by
  have h1 : (a + 1#16).toNat = a.toNat + 1 := by
    rw [BitVec.toNat_add]; simp; omega
  simp [read16, memRead, regionOf_prgHigh h, regionOf_prgHigh (a := a + 1#16) (by omega), h1]

/-! ### Writes -/

/-- The registers a write leaves alone: all but `credit` and `cycles`, which an OAM DMA charges. -/
theorem dmaCopy_state (d : Byte) (n : Nat) (s : State) :
    dmaCopy d n s = (s.setPpu (dmaCopy d n s).ppu).setDraws (dmaCopy d n s).draws := by
  induction n with
  | zero => rfl
  | succ n ih =>
    simp only [dmaCopy]
    rw [memRead_state, ih]
    rfl

/-- What a write can do: RAM, PPU, cartridge and draws may change, the CPU only by an OAM DMA's stall. -/
theorem memWrite_state (c : Nat) (a : Word) (v : Byte) (s : State) :
    ∃ k : Nat, memWrite c a v s =
      { s with
        cpu := { s.cpu with credit := s.cpu.credit - k, cycles := s.cpu.cycles + k }
        ram := (memWrite c a v s).ram, ppu := (memWrite c a v s).ppu
        cart := (memWrite c a v s).cart, draws := (memWrite c a v s).draws } := by
  by_cases h : regionOf a = .oamDma
  · refine ⟨dmaStall (s.cpu.cycles + c), ?_⟩
    simp only [memWrite, h, oamDma]
    rw [dmaCopy_state]
    rfl
  · refine ⟨0, ?_⟩
    unfold memWrite
    split <;> first | exact absurd ‹_› h | simp [State.setRam, State.setPpu, State.setCart]

theorem memWrite_ram {a : Word} {i : Nat} (h : regionOf a = .ram i) (c : Nat) (v : Byte) (s : State) :
    memWrite c a v s = s.setRam (s.ram.write i v) := by simp [memWrite, h]

@[simp] theorem memWrite_p (c : Nat) (a : Word) (v : Byte) (s : State) :
    (memWrite c a v s).cpu.p = s.cpu.p := by
  obtain ⟨k, h⟩ := memWrite_state c a v s
  rw [h]

/-! ### The stack -/

/-- A push writes one byte of page $01 and moves SP down (R25). -/
theorem push_eq (v : Byte) (s : State) :
    push v s = { s with ram := s.ram.write (0x100 + s.cpu.sp.toNat) v, cpu := { s.cpu with sp := s.cpu.sp - 1#8 } } := by
  simp [push, memWrite_ram (regionOf_stackAddr _), State.setRam, State.setCpu]

/-- A pull moves SP up and reads one byte of page $01 (R25). -/
theorem pull_eq (s : State) :
    pull s = (s.ram.read (0x100 + (s.cpu.sp + 1#8).toNat), { s with cpu := { s.cpu with sp := s.cpu.sp + 1#8 } }) := by
  simp [pull, memRead_stackAddr, State.setCpu]

/-- Taking an interrupt: three bytes pushed, I set, PC from the vector (R198, R425). -/
theorem enterInterrupt_eq (status : Byte) {vector : Word} (h : 0xC000 ≤ vector.toNat)
    (h' : vector.toNat < 0xFFFF) (s : State) :
    enterInterrupt status vector s =
      { s with
        ram := ((s.ram.write (0x100 + s.cpu.sp.toNat) (hiByte s.cpu.pc)).write
          (0x100 + (s.cpu.sp - 1#8).toNat) (loByte s.cpu.pc)).write
          (0x100 + (s.cpu.sp - 1#8 - 1#8).toNat) status
        cpu := { s.cpu with
          sp := s.cpu.sp - 1#8 - 1#8 - 1#8
          p := putBit s.cpu.p 2 true
          pc := wordOf (s.cart.readPrg (vector.toNat - 0x8000)) (s.cart.readPrg (vector.toNat + 1 - 0x8000)) } } := by
  simp [enterInterrupt, push_eq, read16_vector h h', State.setCpu]

/-- The return from an interrupt: P, then PC, from three bytes of page $01 (R197). -/
theorem returnFromInterrupt_eq (s : State) :
    returnFromInterrupt s =
      { s with
        cpu := { s.cpu with
          sp := s.cpu.sp + 1#8 + 1#8 + 1#8
          p := storedP (s.ram.read (0x100 + (s.cpu.sp + 1#8).toNat))
          pc := wordOf (s.ram.read (0x100 + (s.cpu.sp + 1#8 + 1#8).toNat))
            (s.ram.read (0x100 + (s.cpu.sp + 1#8 + 1#8 + 1#8).toNat)) } } := by
  simp [returnFromInterrupt, pull_eq, State.setCpu]

/-! ### Operands -/

/-- The pointer in page zero: two bytes of work RAM, nothing changed (R110, R111). -/
theorem zeroPagePointer_eq (n : Byte) (s : State) :
    zeroPagePointer n s = (wordOf (s.ram.read n.toNat) (s.ram.read (n + 1#8).toNat), s) := by
  simp [zeroPagePointer, memRead_zext16]

/-- Computing an effective address changes nothing: pointers lie in work RAM. -/
@[simp] theorem effAddr_st (m : MemOperand) (s : State) : (effAddr m s).st = s := by
  cases m <;> simp [effAddr, indexed, zeroPagePointer_eq]

/-- The operand of a reading instruction in memory (R118). -/
theorem src_mem (m : MemOperand) (s : State) :
    src (.mem m) s = ⟨(memRead (effAddr m s).addr s).1, (effAddr m s).crossed, (memRead (effAddr m s).addr s).2⟩ := by
  simp [src]

@[simp] theorem src_imm (n : Byte) (s : State) : src (.imm n) s = ⟨n, false, s⟩ := rfl

@[simp] theorem src_cpu (d : DataOperand) (s : State) : (src d s).st.cpu = s.cpu := by
  cases d <;> simp [src_mem]
@[simp] theorem src_ram (d : DataOperand) (s : State) : (src d s).st.ram = s.ram := by
  cases d <;> simp [src_mem]
@[simp] theorem src_cart (d : DataOperand) (s : State) : (src d s).st.cart = s.cart := by
  cases d <;> simp [src_mem]

/-! ### The shapes of instructions -/

/-- A reading instruction changes, beside what the read itself does, only the CPU. -/
theorem readInstr_eq (u : Byte → Cpu → Cpu) (d : DataOperand) (base : Nat) (pen : Bool) (s : State) :
    readInstr u d base pen s
      = .next { (src d s).st with
          cpu := (u (src d s).value s.cpu).charge (pageCost base pen (src d s).crossed) } := by
  simp [readInstr, State.charge, State.setCpu]

/-- A storing instruction: one write at the effective address. -/
theorem storeInstr_eq (v : Byte) (m : MemOperand) (base : Nat) (s : State) :
    storeInstr v m base s = .next ((memWrite base (effAddr m s).addr v s).charge base) := by
  simp [storeInstr]

/-- A read-modify-write in memory: one read and one write of the effective address, then P. -/
theorem modifyMem_eq (f : Byte → Byte → Byte × Byte) (m : MemOperand) (base : Nat) (s : State) :
    modifyMem f m base s =
      let r := memRead (effAddr m s).addr s
      let o := f s.cpu.p r.1
      let w := memWrite base (effAddr m s).addr o.1 r.2
      .next ((w.setCpu { w.cpu with p := o.2 }).charge base) := by
  simp [modifyMem]

end Sys2Proof.Machine
end

