-- ==== Sys2Proof/Laws/Exec.lean ====
section
/-! SUPPORT. What kind of meaning each instruction has, said once: a read, a store, a read-modify-write, a branch, a register
operation, or one of the ten that are their own shape. A proof about every instruction splits into these kinds. -/

namespace Sys2Proof.Machine

/-- The register effect of a reading mnemonic. -/
def readEffect : Mnemonic → Option (Byte → Cpu → Cpu)
  | .lda => some loadA
  | .ldx => some loadX
  | .ldy => some loadY
  | .adc => some adcA
  | .sbc => some sbcA
  | .and => some andA
  | .ora => some oraA
  | .eor => some eorA
  | .cmp => some cmpA
  | .cpx => some cmpX
  | .cpy => some cmpY
  | .bit => some bitA
  | _ => none

/-- The register a storing mnemonic stores. -/
def storeEffect : Mnemonic → Option (Cpu → Byte)
  | .sta => some Cpu.a
  | .stx => some Cpu.x
  | .sty => some Cpu.y
  | _ => none

/-- The function of a read-modify-write mnemonic. -/
def modifyEffect : Mnemonic → Option (Byte → Byte → Byte × Byte)
  | .asl => some aslOp
  | .lsr => some lsrOp
  | .rol => some rolOp
  | .ror => some rorOp
  | .inc => some incOp
  | .dec => some decOp
  | _ => none

/-- The condition of a branch. -/
def branchEffect : Mnemonic → Option (Byte → Bool)
  | .bcc => some fun p => !flagC p
  | .bcs => some flagC
  | .beq => some flagZ
  | .bmi => some flagN
  | .bne => some fun p => !flagZ p
  | .bpl => some fun p => !flagN p
  | .bvc => some fun p => !flagV p
  | .bvs => some flagV
  | _ => none

/-- The effect of an instruction that works on the CPU registers alone. -/
def impliedEffect : Mnemonic → Option (Cpu → Cpu)
  | .tax => some fun c => { c with x := c.a, p := setZN c.a c.p }
  | .tay => some fun c => { c with y := c.a, p := setZN c.a c.p }
  | .txa => some fun c => { c with a := c.x, p := setZN c.x c.p }
  | .tya => some fun c => { c with a := c.y, p := setZN c.y c.p }
  | .tsx => some fun c => { c with x := c.sp, p := setZN c.sp c.p }
  | .txs => some fun c => { c with sp := c.x }
  | .inx => some fun c => { c with x := c.x + 1#8, p := setZN (c.x + 1#8) c.p }
  | .iny => some fun c => { c with y := c.y + 1#8, p := setZN (c.y + 1#8) c.p }
  | .dex => some fun c => { c with x := c.x - 1#8, p := setZN (c.x - 1#8) c.p }
  | .dey => some fun c => { c with y := c.y - 1#8, p := setZN (c.y - 1#8) c.p }
  | .clc => some fun c => { c with p := setC false c.p }
  | .cld => some fun c => { c with p := setD false c.p }
  | .cli => some fun c => { c with pendI := some false }
  | .clv => some fun c => { c with p := setV false c.p }
  | .sec => some fun c => { c with p := setC true c.p }
  | .sed => some fun c => { c with p := setD true c.p }
  | .sei => some fun c => { c with pendI := some true }
  | .nop => some fun c => c
  | _ => none

/-- The kinds of instruction. -/
inductive InstrKind : Instr → Prop where
  | read {i : Instr} (d : DataOperand) (u : Byte → Cpu → Cpu) (hd : i.operand = .data d)
      (hu : readEffect i.mnemonic = some u) : InstrKind i
  | store {i : Instr} (m : MemOperand) (v : Cpu → Byte) (hd : i.operand = .data (.mem m))
      (hv : storeEffect i.mnemonic = some v) : InstrKind i
  | modify {i : Instr} (m : MemOperand) (f : Byte → Byte → Byte × Byte) (hd : i.operand = .data (.mem m))
      (hf : modifyEffect i.mnemonic = some f) : InstrKind i
  | accumulator {i : Instr} (f : Byte → Byte → Byte × Byte) (hd : i.operand = .acc)
      (hf : modifyEffect i.mnemonic = some f) : InstrKind i
  | branch {i : Instr} (n : Byte) (b : Byte → Bool) (hd : i.operand = .rel n)
      (hb : branchEffect i.mnemonic = some b) : InstrKind i
  | implied {i : Instr} (u : Cpu → Cpu) (hd : i.operand = .implied)
      (hu : impliedEffect i.mnemonic = some u) : InstrKind i
  | jmpAbs (w : Word) : InstrKind (.jmpAbs w)
  | jmpInd (w : Word) : InstrKind (.jmpInd w)
  | jsr (w : Word) : InstrKind (.jsr w)
  | rts : InstrKind .rts
  | rti : InstrKind .rti
  | brk : InstrKind .brk
  | pha : InstrKind .pha
  | php : InstrKind .php
  | pla : InstrKind .pla
  | plp : InstrKind .plp

/-- Every instruction is of one of the kinds. -/
theorem instr_kind (i : Instr) : InstrKind i := by
  cases i
  case jmpAbs w => exact .jmpAbs w
  case jmpInd w => exact .jmpInd w
  case jsr w => exact .jsr w
  case rts => exact .rts
  case rti => exact .rti
  case brk => exact .brk
  case pha => exact .pha
  case php => exact .php
  case pla => exact .pla
  case plp => exact .plp
  all_goals first
    | exact .read _ _ rfl rfl
    | exact .store _ _ rfl rfl
    | exact .modify _ _ rfl rfl
    | exact .accumulator _ rfl rfl
    | exact .branch _ _ rfl rfl
    | exact .implied _ rfl rfl

/-- A reading instruction is `readInstr` with its mnemonic's effect and its row's cost. -/
theorem exec_read {i : Instr} {d : DataOperand} {u : Byte → Cpu → Cpu} (hd : i.operand = .data d)
    (hu : readEffect i.mnemonic = some u) (s : State) :
    exec i s = readInstr u d i.row.baseCycles i.row.pagePenalty s := by
  cases i <;> cases hu <;> cases hd <;> rfl

/-- A storing instruction is `storeInstr` of its register. -/
theorem exec_store {i : Instr} {m : MemOperand} {v : Cpu → Byte} (hd : i.operand = .data (.mem m))
    (hv : storeEffect i.mnemonic = some v) (s : State) :
    exec i s = storeInstr (v s.cpu) m i.row.baseCycles s := by
  cases i <;> cases hv <;> cases hd <;> rfl

/-- A read-modify-write instruction is `modifyMem` of its function. -/
theorem exec_modify {i : Instr} {m : MemOperand} {f : Byte → Byte → Byte × Byte}
    (hd : i.operand = .data (.mem m)) (hf : modifyEffect i.mnemonic = some f) (s : State) :
    exec i s = modifyMem f m i.row.baseCycles s := by
  cases i <;> cases hf <;> cases hd <;> rfl

/-- A shift of the accumulator is `modifyAcc` of its function. -/
theorem exec_accumulator {i : Instr} {f : Byte → Byte → Byte × Byte} (hd : i.operand = .acc)
    (hf : modifyEffect i.mnemonic = some f) (s : State) :
    exec i s = modifyAcc f i.row.baseCycles s := by
  cases i <;> cases hf <;> cases hd <;> rfl

/-- A branch is `branchInstr` of its condition. -/
theorem exec_branch {i : Instr} {n : Byte} {b : Byte → Bool} (hd : i.operand = .rel n)
    (hb : branchEffect i.mnemonic = some b) (s : State) :
    exec i s = branchInstr (b s.cpu.p) n i.row.baseCycles s := by
  cases i <;> cases hb <;> cases hd <;> rfl

/-- A register instruction is `impliedInstr` of its effect. -/
theorem exec_implied {i : Instr} {u : Cpu → Cpu} (hd : i.operand = .implied)
    (hu : impliedEffect i.mnemonic = some u) (s : State) :
    exec i s = impliedInstr u i.row.baseCycles s := by
  cases i <;> cases hu <;> cases hd <;> rfl

/-- A reading instruction's effect touches only A, X, Y and P. -/
theorem readEffect_frame {m : Mnemonic} {u : Byte → Cpu → Cpu} (hu : readEffect m = some u) (v : Byte) (c : Cpu) :
    u v c = { c with a := (u v c).a, x := (u v c).x, y := (u v c).y, p := (u v c).p } := by
  cases m <;> cases hu <;> rfl

/-- A register instruction's effect leaves PC, the carried I, the NMI latch and the cycle accounting alone. -/
theorem impliedEffect_frame {m : Mnemonic} {u : Cpu → Cpu} (hu : impliedEffect m = some u) (c : Cpu) :
    u c = { c with a := (u c).a, x := (u c).x, y := (u c).y, sp := (u c).sp, p := (u c).p, pendI := (u c).pendI } := by
  cases m <;> cases hu <;> rfl

/-- Every instruction completes: `exec` always answers a next state. -/
theorem exec_next (i : Instr) (s : State) : ∃ t, exec i s = .next t := by
  cases instr_kind i with
  | read d u hd hu => exact ⟨_, exec_read hd hu s⟩
  | store m v hd hv => exact ⟨_, exec_store hd hv s⟩
  | modify m f hd hf => exact ⟨_, exec_modify hd hf s⟩
  | accumulator f hd hf => exact ⟨_, exec_accumulator hd hf s⟩
  | branch n b hd hb =>
    rw [exec_branch hd hb]
    unfold branchInstr
    cases b s.cpu.p
    · exact ⟨_, rfl⟩
    · exact ⟨_, rfl⟩
  | implied u hd hu => exact ⟨_, exec_implied hd hu s⟩
  | _ => exact ⟨_, rfl⟩

end Sys2Proof.Machine
end

