-- ==== Sys2Proof/Laws/Ppu.lean ====
section
/-! SUPPORT. What one tick of the PPU can do, said once: which fields its events and its position advance touch. -/

namespace Sys2Proof.Machine

/-- The events of a tick touch `v`, the three status flags, the object buffer and the frame buffer, nothing else (R335). -/
theorem ppuEvents_frame (c : Cartridge) (p : Ppu) :
    ppuEvents c p = { p with
      v := (ppuEvents c p).v, vblank := (ppuEvents c p).vblank, spr0hit := (ppuEvents c p).spr0hit
      overflow := (ppuEvents c p).overflow, sec := (ppuEvents c p).sec, fb := (ppuEvents c p).fb } := by
  unfold ppuEvents lineEvent renderLine evaluateObjects
  split_ifs <;> rfl

/-- The position advance touches the position and the parity only (R331). -/
theorem advancePosition_frame (p : Ppu) :
    (advancePosition p).1 = { p with
      dot := (advancePosition p).1.dot, scanline := (advancePosition p).1.scanline
      odd := (advancePosition p).1.odd } := by
  unfold advancePosition
  split_ifs <;> rfl

/-- The position advance within a line (R331). -/
theorem advancePosition_inLine {p : Ppu} (h : p.dot + 1 ≠ 341) :
    advancePosition p = ({ p with dot := p.dot + 1 }, false) := by
  unfold advancePosition
  rw [if_neg h]

/-- The position advance to the next line (R331). -/
theorem advancePosition_lineEnd {p : Ppu} (h : p.dot + 1 = 341) (h' : p.scanline + 1 ≠ 262) :
    advancePosition p = ({ p with dot := 0, scanline := p.scanline + 1 }, false) := by
  unfold advancePosition
  rw [if_pos h, if_neg h']

/-- The position advance that completes a frame (R331, R333). -/
theorem advancePosition_frameEnd {p : Ppu} (h : p.dot + 1 = 341) (h' : p.scanline + 1 = 262) :
    advancePosition p = ({ p with dot := if !p.odd then 1 else 0, scanline := 0, odd := !p.odd }, true) := by
  unfold advancePosition
  rw [if_pos h, if_pos h']

/-- A tick that completes no frame hands nothing over. -/
@[simp] theorem handOver_false (p : Ppu) : handOver false p = p := rfl

/-- The tick that completes a frame hands the buffer over and leaves no line listed (R345, R44). -/
@[simp] theorem handOver_true (p : Ppu) : handOver true p = { p with frame := p.fb, fb := [] } := rfl

/-- Handing a frame over touches the two buffers only. -/
theorem handOver_frame (b : Bool) (p : Ppu) :
    handOver b p = { p with fb := (handOver b p).fb, frame := (handOver b p).frame } := by
  cases b <;> rfl

/-- The PPU after a tick: the events, the advance, the handing over of a complete frame (R330, R345). -/
theorem tick_ppu (s : State) :
    (tick s).1.ppu = handOver (tick s).2 (advancePosition (ppuEvents s.cart s.ppu)).1 := by
  unfold tick ppuTick
  simp only
  split <;> rfl

/-- Whether a tick completes the frame. -/
theorem tick_frameComplete (s : State) : (tick s).2 = (advancePosition (ppuEvents s.cart s.ppu)).2 := rfl

/-- The NMI latch after a tick (R348, R404). -/
theorem tick_nmiPending (s : State) :
    (tick s).1.cpu.nmiPending
      = (s.cpu.nmiPending || (decide (s.ppu.scanline = 241 ∧ s.ppu.dot = 1) && s.ppu.ctrl.getLsbD 7)) := by
  unfold tick ppuTick
  simp only
  split
  · rename_i h
    rw [h]
    simp
  · rename_i h
    rw [Bool.not_eq_true] at h
    rw [h]
    simp

/-- A tick changes the PPU and the NMI latch, nothing else (R330). -/
theorem tick_frame (s : State) :
    (tick s).1 = { s with
      ppu := (tick s).1.ppu, cpu := { s.cpu with nmiPending := (tick s).1.cpu.nmiPending } } := by
  unfold tick
  simp only
  split <;> rfl

/-- Any number of ticks changes the PPU and the NMI latch, nothing else. -/
theorem ppuStep_frame (n : Nat) (s : State) :
    (ppuStep n s).1 = { s with
      ppu := (ppuStep n s).1.ppu, cpu := { s.cpu with nmiPending := (ppuStep n s).1.cpu.nmiPending } } := by
  induction n generalizing s with
  | zero => rfl
  | succ n ih =>
    have h := ih (tick s).1
    simp only [ppuStep]
    rw [h, tick_frame s]

/-- One more tick, seen from the PPU. -/
theorem ppuStep_succ (n : Nat) (s : State) :
    ppuStep (n + 1) s = ((ppuStep n (tick s).1).1, (tick s).2 || (ppuStep n (tick s).1).2) := rfl

end Sys2Proof.Machine
end

