-- ==== Sys2Proof/Laws/Frame.lean ====
section
/-! SUPPORT. What ticks do to the frame buffer, said once: it holds exactly the lines the current frame has rendered, and a
complete frame is handed over whole (R44, R345). -/

namespace Sys2Proof.Machine

/-- The line after the ones a buffer holds is put at its end. -/
theorem writeLine_next {fb : List (Nat × List Pixel)} {n : Nat} (h : fb.map Prod.fst = List.range n)
    (px : List Pixel) : writeLine fb n px = fb ++ [(n, px)] := by
  have hlt : ∀ l ∈ fb, l.1 < n := fun l hl => by
    have := List.mem_map_of_mem (f := Prod.fst) hl
    rwa [h, List.mem_range] at this
  clear h
  induction fb with
  | nil => rfl
  | cons l fb ih =>
    have hk : l.1 < n := hlt l (by simp)
    simp only [writeLine]
    rw [if_neg (by omega), if_neg (by omega), ih fun m hm => hlt m (by simp [hm])]
    rfl

/-- A buffer of the first `n` lines with line `n` written is one of the first `n + 1`. -/
theorem linesWf_writeLine {fb : List (Nat × List Pixel)} {n : Nat} {px : List Pixel} (h : linesWf n fb = true)
    (hpx : px.length = 256) : linesWf (n + 1) (writeLine fb n px) = true := by
  simp only [linesWf, Bool.and_eq_true, beq_iff_eq] at h
  rw [writeLine_next h.1]
  simp [linesWf, List.range_succ, h.1, h.2, hpx]

/-- The events of a position leave a buffer of the lines rendered up to and with that position (R335). -/
theorem ppuEvents_linesWf (c : Cartridge) {p : Ppu} (h : linesWf p.linesRendered p.fb = true) :
    linesWf (if 240 ≤ p.scanline then 240 else if 256 ≤ p.dot then p.scanline + 1 else p.scanline)
      (ppuEvents c p).fb = true := by
  unfold Ppu.linesRendered at h
  by_cases hc : p.scanline < 240 ∧ p.dot = 256
  · obtain ⟨px, hpx, e⟩ : ∃ px : List Pixel, px.length = 256 ∧ (ppuEvents c p).fb = writeLine p.fb p.scanline px := by
      unfold ppuEvents lineEvent
      rw [if_pos hc]
      split <;> exact ⟨_, by simp, rfl⟩
    rw [if_neg (by omega), if_neg (by omega)] at h
    rw [e, if_neg (by omega), if_pos (by omega)]
    exact linesWf_writeLine h hpx
  · have e : (ppuEvents c p).fb = p.fb := by
      unfold ppuEvents
      rw [if_neg hc]
      split_ifs <;> rfl
    rw [e]
    refine (congrArg (linesWf · p.fb) ?_).trans h
    split_ifs <;> omega

/-- The position is in bounds, the frame buffer holds exactly the lines rendered, the sink's frame is whole or none. -/
structure FrameInv (p : Ppu) : Prop where
  dot : p.dot ≤ 340
  scanline : p.scanline ≤ 261
  lines : linesWf p.linesRendered p.fb = true
  whole : p.frame = [] ∨ linesWf 240 p.frame = true

/-- A tick keeps `FrameInv`, and the tick that completes a frame hands over all 240 lines. -/
theorem tick_frameInv {s : State} (h : FrameInv s.ppu) :
    FrameInv (tick s).1.ppu ∧ ((tick s).2 = true → linesWf 240 (tick s).1.ppu.frame = true) := by
  have hl := ppuEvents_linesWf s.cart h.lines
  obtain ⟨hd, hs, -, hw⟩ := h
  obtain ⟨q1, q2, q3⟩ : (ppuEvents s.cart s.ppu).dot = s.ppu.dot ∧ (ppuEvents s.cart s.ppu).scanline = s.ppu.scanline
      ∧ (ppuEvents s.cart s.ppu).frame = s.ppu.frame := by
    rw [ppuEvents_frame]
    exact ⟨rfl, rfl, rfl⟩
  rw [tick_ppu, tick_frameComplete]
  generalize ppuEvents s.cart s.ppu = q at *
  rw [← q1] at hd
  rw [← q2] at hs
  rw [← q1, ← q2] at hl
  rw [← q3] at hw
  by_cases h1 : q.dot + 1 = 341
  · by_cases h2 : q.scanline + 1 = 262
    · rw [advancePosition_frameEnd h1 h2]
      rw [if_pos (by omega)] at hl
      refine ⟨⟨?_, Nat.zero_le _, ?_, .inr hl⟩, fun _ => hl⟩
      · show (if !q.odd then 1 else 0) ≤ 340
        split <;> omega
      · cases hh : q.odd <;> simp [linesWf, Ppu.linesRendered]
    · rw [advancePosition_lineEnd h1 h2]
      refine ⟨⟨Nat.zero_le _, show q.scanline + 1 ≤ 261 by omega, ?_, hw⟩, fun h => nomatch h⟩
      refine (congrArg (linesWf · q.fb) ?_).trans hl
      show (if 240 ≤ q.scanline + 1 then 240 else q.scanline + 1)
        = if 240 ≤ q.scanline then 240 else if 256 ≤ q.dot then q.scanline + 1 else q.scanline
      split_ifs <;> omega
  · rw [advancePosition_inLine h1]
    refine ⟨⟨show q.dot + 1 ≤ 340 by omega, hs, ?_, hw⟩, fun h => nomatch h⟩
    refine (congrArg (linesWf · q.fb) ?_).trans hl
    show (if 240 ≤ q.scanline then 240 else if 256 < q.dot + 1 then q.scanline + 1 else q.scanline)
      = if 240 ≤ q.scanline then 240 else if 256 ≤ q.dot then q.scanline + 1 else q.scanline
    split_ifs <;> omega

/-- A tick that completes no frame leaves the handed-over frame alone. -/
theorem tick_frame_kept {s : State} (h : (tick s).2 = false) : (tick s).1.ppu.frame = s.ppu.frame := by
  rw [tick_ppu, h, handOver_false, advancePosition_frame, ppuEvents_frame]

/-- Any number of ticks keep `FrameInv`, and when one completes a frame the sink holds all 240 lines (R345, R403). -/
theorem ppuStep_frameInv (n : Nat) {s : State} (h : FrameInv s.ppu) :
    FrameInv (ppuStep n s).1.ppu
      ∧ ((ppuStep n s).2 = true ∨ linesWf 240 s.ppu.frame = true → linesWf 240 (ppuStep n s).1.ppu.frame = true) := by
  induction n generalizing s with
  | zero => exact ⟨h, fun h => h.resolve_left nofun⟩
  | succ n ih =>
    obtain ⟨h1, h2⟩ := tick_frameInv h
    refine ⟨(ih h1).1, fun hc => (ih h1).2 ?_⟩
    rw [ppuStep_succ, Bool.or_eq_true, or_assoc] at hc
    cases ht : (tick s).2 with
    | true => exact .inr (h2 ht)
    | false =>
      rw [ht, ← tick_frame_kept ht] at hc
      exact hc.resolve_left nofun

end Sys2Proof.Machine
end

