-- ==== Sys2Proof/Laws/PerInstr.lean ====
section
/-! SUPPORT. The laws made for each instruction as syntax: its mnemonic has its mode, and the opcode map of R115 holds at its
row's opcode an instruction of its mode's length. -/

namespace Sys2Proof.Laws.Encoding

/-- What is said of each instruction: its mnemonic exists in its mode, its bytes are its row's opcode and then its operand's, and
the opcode map asks at that opcode for as many operand bytes as its mode has (R100, R115). -/
def Statement (i : Instr) : Prop :=
  i.mnemonic.modes.contains i.operand.mode = true ∧ (encode i).head? = some i.row.opcode
    ∧ i.operand.bytes.length = i.operand.mode.operandBytes
    ∧ (shapeOf i.row.opcode).operandBytes = i.operand.mode.operandBytes

/-- The parts of a statement, the opcode written out. -/
theorem of_parts {i : Instr} (op : Byte) (k : Nat) (hm : i.mnemonic.modes.contains i.operand.mode = true)
    (ho : i.row.opcode = op) (hb : i.operand.bytes.length = k) (hk : i.operand.mode.operandBytes = k)
    (hs : (shapeOf op).operandBytes = k) : Statement i :=
  ⟨hm, rfl, hb.trans hk.symm, by rw [ho, hs, hk]⟩

theorem ldaIndX (n : Byte) : Statement (.ldaIndX n) := of_parts 0xA1#8 1 rfl rfl rfl rfl rfl
theorem ldaZp (n : Byte) : Statement (.ldaZp n) := of_parts 0xA5#8 1 rfl rfl rfl rfl rfl
theorem ldaImm (n : Byte) : Statement (.ldaImm n) := of_parts 0xA9#8 1 rfl rfl rfl rfl rfl
theorem ldaAbs (w : Word) : Statement (.ldaAbs w) := of_parts 0xAD#8 2 rfl rfl rfl rfl rfl
theorem ldaIndY (n : Byte) : Statement (.ldaIndY n) := of_parts 0xB1#8 1 rfl rfl rfl rfl rfl
theorem ldaZpX (n : Byte) : Statement (.ldaZpX n) := of_parts 0xB5#8 1 rfl rfl rfl rfl rfl
theorem ldaAbsY (w : Word) : Statement (.ldaAbsY w) := of_parts 0xB9#8 2 rfl rfl rfl rfl rfl
theorem ldaAbsX (w : Word) : Statement (.ldaAbsX w) := of_parts 0xBD#8 2 rfl rfl rfl rfl rfl
theorem ldxImm (n : Byte) : Statement (.ldxImm n) := of_parts 0xA2#8 1 rfl rfl rfl rfl rfl
theorem ldxZp (n : Byte) : Statement (.ldxZp n) := of_parts 0xA6#8 1 rfl rfl rfl rfl rfl
theorem ldxAbs (w : Word) : Statement (.ldxAbs w) := of_parts 0xAE#8 2 rfl rfl rfl rfl rfl
theorem ldxZpY (n : Byte) : Statement (.ldxZpY n) := of_parts 0xB6#8 1 rfl rfl rfl rfl rfl
theorem ldxAbsY (w : Word) : Statement (.ldxAbsY w) := of_parts 0xBE#8 2 rfl rfl rfl rfl rfl
theorem ldyImm (n : Byte) : Statement (.ldyImm n) := of_parts 0xA0#8 1 rfl rfl rfl rfl rfl
theorem ldyZp (n : Byte) : Statement (.ldyZp n) := of_parts 0xA4#8 1 rfl rfl rfl rfl rfl
theorem ldyAbs (w : Word) : Statement (.ldyAbs w) := of_parts 0xAC#8 2 rfl rfl rfl rfl rfl
theorem ldyZpX (n : Byte) : Statement (.ldyZpX n) := of_parts 0xB4#8 1 rfl rfl rfl rfl rfl
theorem ldyAbsX (w : Word) : Statement (.ldyAbsX w) := of_parts 0xBC#8 2 rfl rfl rfl rfl rfl
theorem staIndX (n : Byte) : Statement (.staIndX n) := of_parts 0x81#8 1 rfl rfl rfl rfl rfl
theorem staZp (n : Byte) : Statement (.staZp n) := of_parts 0x85#8 1 rfl rfl rfl rfl rfl
theorem staAbs (w : Word) : Statement (.staAbs w) := of_parts 0x8D#8 2 rfl rfl rfl rfl rfl
theorem staIndY (n : Byte) : Statement (.staIndY n) := of_parts 0x91#8 1 rfl rfl rfl rfl rfl
theorem staZpX (n : Byte) : Statement (.staZpX n) := of_parts 0x95#8 1 rfl rfl rfl rfl rfl
theorem staAbsY (w : Word) : Statement (.staAbsY w) := of_parts 0x99#8 2 rfl rfl rfl rfl rfl
theorem staAbsX (w : Word) : Statement (.staAbsX w) := of_parts 0x9D#8 2 rfl rfl rfl rfl rfl
theorem stxZp (n : Byte) : Statement (.stxZp n) := of_parts 0x86#8 1 rfl rfl rfl rfl rfl
theorem stxAbs (w : Word) : Statement (.stxAbs w) := of_parts 0x8E#8 2 rfl rfl rfl rfl rfl
theorem stxZpY (n : Byte) : Statement (.stxZpY n) := of_parts 0x96#8 1 rfl rfl rfl rfl rfl
theorem styZp (n : Byte) : Statement (.styZp n) := of_parts 0x84#8 1 rfl rfl rfl rfl rfl
theorem styAbs (w : Word) : Statement (.styAbs w) := of_parts 0x8C#8 2 rfl rfl rfl rfl rfl
theorem styZpX (n : Byte) : Statement (.styZpX n) := of_parts 0x94#8 1 rfl rfl rfl rfl rfl
theorem tax : Statement .tax := of_parts 0xAA#8 0 rfl rfl rfl rfl rfl
theorem tay : Statement .tay := of_parts 0xA8#8 0 rfl rfl rfl rfl rfl
theorem txa : Statement .txa := of_parts 0x8A#8 0 rfl rfl rfl rfl rfl
theorem tya : Statement .tya := of_parts 0x98#8 0 rfl rfl rfl rfl rfl
theorem tsx : Statement .tsx := of_parts 0xBA#8 0 rfl rfl rfl rfl rfl
theorem txs : Statement .txs := of_parts 0x9A#8 0 rfl rfl rfl rfl rfl
theorem adcIndX (n : Byte) : Statement (.adcIndX n) := of_parts 0x61#8 1 rfl rfl rfl rfl rfl
theorem adcZp (n : Byte) : Statement (.adcZp n) := of_parts 0x65#8 1 rfl rfl rfl rfl rfl
theorem adcImm (n : Byte) : Statement (.adcImm n) := of_parts 0x69#8 1 rfl rfl rfl rfl rfl
theorem adcAbs (w : Word) : Statement (.adcAbs w) := of_parts 0x6D#8 2 rfl rfl rfl rfl rfl
theorem adcIndY (n : Byte) : Statement (.adcIndY n) := of_parts 0x71#8 1 rfl rfl rfl rfl rfl
theorem adcZpX (n : Byte) : Statement (.adcZpX n) := of_parts 0x75#8 1 rfl rfl rfl rfl rfl
theorem adcAbsY (w : Word) : Statement (.adcAbsY w) := of_parts 0x79#8 2 rfl rfl rfl rfl rfl
theorem adcAbsX (w : Word) : Statement (.adcAbsX w) := of_parts 0x7D#8 2 rfl rfl rfl rfl rfl
theorem sbcIndX (n : Byte) : Statement (.sbcIndX n) := of_parts 0xE1#8 1 rfl rfl rfl rfl rfl
theorem sbcZp (n : Byte) : Statement (.sbcZp n) := of_parts 0xE5#8 1 rfl rfl rfl rfl rfl
theorem sbcImm (n : Byte) : Statement (.sbcImm n) := of_parts 0xE9#8 1 rfl rfl rfl rfl rfl
theorem sbcAbs (w : Word) : Statement (.sbcAbs w) := of_parts 0xED#8 2 rfl rfl rfl rfl rfl
theorem sbcIndY (n : Byte) : Statement (.sbcIndY n) := of_parts 0xF1#8 1 rfl rfl rfl rfl rfl
theorem sbcZpX (n : Byte) : Statement (.sbcZpX n) := of_parts 0xF5#8 1 rfl rfl rfl rfl rfl
theorem sbcAbsY (w : Word) : Statement (.sbcAbsY w) := of_parts 0xF9#8 2 rfl rfl rfl rfl rfl
theorem sbcAbsX (w : Word) : Statement (.sbcAbsX w) := of_parts 0xFD#8 2 rfl rfl rfl rfl rfl
theorem andIndX (n : Byte) : Statement (.andIndX n) := of_parts 0x21#8 1 rfl rfl rfl rfl rfl
theorem andZp (n : Byte) : Statement (.andZp n) := of_parts 0x25#8 1 rfl rfl rfl rfl rfl
theorem andImm (n : Byte) : Statement (.andImm n) := of_parts 0x29#8 1 rfl rfl rfl rfl rfl
theorem andAbs (w : Word) : Statement (.andAbs w) := of_parts 0x2D#8 2 rfl rfl rfl rfl rfl
theorem andIndY (n : Byte) : Statement (.andIndY n) := of_parts 0x31#8 1 rfl rfl rfl rfl rfl
theorem andZpX (n : Byte) : Statement (.andZpX n) := of_parts 0x35#8 1 rfl rfl rfl rfl rfl
theorem andAbsY (w : Word) : Statement (.andAbsY w) := of_parts 0x39#8 2 rfl rfl rfl rfl rfl
theorem andAbsX (w : Word) : Statement (.andAbsX w) := of_parts 0x3D#8 2 rfl rfl rfl rfl rfl
theorem oraIndX (n : Byte) : Statement (.oraIndX n) := of_parts 0x01#8 1 rfl rfl rfl rfl rfl
theorem oraZp (n : Byte) : Statement (.oraZp n) := of_parts 0x05#8 1 rfl rfl rfl rfl rfl
theorem oraImm (n : Byte) : Statement (.oraImm n) := of_parts 0x09#8 1 rfl rfl rfl rfl rfl
theorem oraAbs (w : Word) : Statement (.oraAbs w) := of_parts 0x0D#8 2 rfl rfl rfl rfl rfl
theorem oraIndY (n : Byte) : Statement (.oraIndY n) := of_parts 0x11#8 1 rfl rfl rfl rfl rfl
theorem oraZpX (n : Byte) : Statement (.oraZpX n) := of_parts 0x15#8 1 rfl rfl rfl rfl rfl
theorem oraAbsY (w : Word) : Statement (.oraAbsY w) := of_parts 0x19#8 2 rfl rfl rfl rfl rfl
theorem oraAbsX (w : Word) : Statement (.oraAbsX w) := of_parts 0x1D#8 2 rfl rfl rfl rfl rfl
theorem eorIndX (n : Byte) : Statement (.eorIndX n) := of_parts 0x41#8 1 rfl rfl rfl rfl rfl
theorem eorZp (n : Byte) : Statement (.eorZp n) := of_parts 0x45#8 1 rfl rfl rfl rfl rfl
theorem eorImm (n : Byte) : Statement (.eorImm n) := of_parts 0x49#8 1 rfl rfl rfl rfl rfl
theorem eorAbs (w : Word) : Statement (.eorAbs w) := of_parts 0x4D#8 2 rfl rfl rfl rfl rfl
theorem eorIndY (n : Byte) : Statement (.eorIndY n) := of_parts 0x51#8 1 rfl rfl rfl rfl rfl
theorem eorZpX (n : Byte) : Statement (.eorZpX n) := of_parts 0x55#8 1 rfl rfl rfl rfl rfl
theorem eorAbsY (w : Word) : Statement (.eorAbsY w) := of_parts 0x59#8 2 rfl rfl rfl rfl rfl
theorem eorAbsX (w : Word) : Statement (.eorAbsX w) := of_parts 0x5D#8 2 rfl rfl rfl rfl rfl
theorem cmpIndX (n : Byte) : Statement (.cmpIndX n) := of_parts 0xC1#8 1 rfl rfl rfl rfl rfl
theorem cmpZp (n : Byte) : Statement (.cmpZp n) := of_parts 0xC5#8 1 rfl rfl rfl rfl rfl
theorem cmpImm (n : Byte) : Statement (.cmpImm n) := of_parts 0xC9#8 1 rfl rfl rfl rfl rfl
theorem cmpAbs (w : Word) : Statement (.cmpAbs w) := of_parts 0xCD#8 2 rfl rfl rfl rfl rfl
theorem cmpIndY (n : Byte) : Statement (.cmpIndY n) := of_parts 0xD1#8 1 rfl rfl rfl rfl rfl
theorem cmpZpX (n : Byte) : Statement (.cmpZpX n) := of_parts 0xD5#8 1 rfl rfl rfl rfl rfl
theorem cmpAbsY (w : Word) : Statement (.cmpAbsY w) := of_parts 0xD9#8 2 rfl rfl rfl rfl rfl
theorem cmpAbsX (w : Word) : Statement (.cmpAbsX w) := of_parts 0xDD#8 2 rfl rfl rfl rfl rfl
theorem cpxImm (n : Byte) : Statement (.cpxImm n) := of_parts 0xE0#8 1 rfl rfl rfl rfl rfl
theorem cpxZp (n : Byte) : Statement (.cpxZp n) := of_parts 0xE4#8 1 rfl rfl rfl rfl rfl
theorem cpxAbs (w : Word) : Statement (.cpxAbs w) := of_parts 0xEC#8 2 rfl rfl rfl rfl rfl
theorem cpyImm (n : Byte) : Statement (.cpyImm n) := of_parts 0xC0#8 1 rfl rfl rfl rfl rfl
theorem cpyZp (n : Byte) : Statement (.cpyZp n) := of_parts 0xC4#8 1 rfl rfl rfl rfl rfl
theorem cpyAbs (w : Word) : Statement (.cpyAbs w) := of_parts 0xCC#8 2 rfl rfl rfl rfl rfl
theorem bitZp (n : Byte) : Statement (.bitZp n) := of_parts 0x24#8 1 rfl rfl rfl rfl rfl
theorem bitAbs (w : Word) : Statement (.bitAbs w) := of_parts 0x2C#8 2 rfl rfl rfl rfl rfl
theorem incZp (n : Byte) : Statement (.incZp n) := of_parts 0xE6#8 1 rfl rfl rfl rfl rfl
theorem incAbs (w : Word) : Statement (.incAbs w) := of_parts 0xEE#8 2 rfl rfl rfl rfl rfl
theorem incZpX (n : Byte) : Statement (.incZpX n) := of_parts 0xF6#8 1 rfl rfl rfl rfl rfl
theorem incAbsX (w : Word) : Statement (.incAbsX w) := of_parts 0xFE#8 2 rfl rfl rfl rfl rfl
theorem decZp (n : Byte) : Statement (.decZp n) := of_parts 0xC6#8 1 rfl rfl rfl rfl rfl
theorem decAbs (w : Word) : Statement (.decAbs w) := of_parts 0xCE#8 2 rfl rfl rfl rfl rfl
theorem decZpX (n : Byte) : Statement (.decZpX n) := of_parts 0xD6#8 1 rfl rfl rfl rfl rfl
theorem decAbsX (w : Word) : Statement (.decAbsX w) := of_parts 0xDE#8 2 rfl rfl rfl rfl rfl
theorem inx : Statement .inx := of_parts 0xE8#8 0 rfl rfl rfl rfl rfl
theorem iny : Statement .iny := of_parts 0xC8#8 0 rfl rfl rfl rfl rfl
theorem dex : Statement .dex := of_parts 0xCA#8 0 rfl rfl rfl rfl rfl
theorem dey : Statement .dey := of_parts 0x88#8 0 rfl rfl rfl rfl rfl
theorem aslZp (n : Byte) : Statement (.aslZp n) := of_parts 0x06#8 1 rfl rfl rfl rfl rfl
theorem aslAcc : Statement .aslAcc := of_parts 0x0A#8 0 rfl rfl rfl rfl rfl
theorem aslAbs (w : Word) : Statement (.aslAbs w) := of_parts 0x0E#8 2 rfl rfl rfl rfl rfl
theorem aslZpX (n : Byte) : Statement (.aslZpX n) := of_parts 0x16#8 1 rfl rfl rfl rfl rfl
theorem aslAbsX (w : Word) : Statement (.aslAbsX w) := of_parts 0x1E#8 2 rfl rfl rfl rfl rfl
theorem lsrZp (n : Byte) : Statement (.lsrZp n) := of_parts 0x46#8 1 rfl rfl rfl rfl rfl
theorem lsrAcc : Statement .lsrAcc := of_parts 0x4A#8 0 rfl rfl rfl rfl rfl
theorem lsrAbs (w : Word) : Statement (.lsrAbs w) := of_parts 0x4E#8 2 rfl rfl rfl rfl rfl
theorem lsrZpX (n : Byte) : Statement (.lsrZpX n) := of_parts 0x56#8 1 rfl rfl rfl rfl rfl
theorem lsrAbsX (w : Word) : Statement (.lsrAbsX w) := of_parts 0x5E#8 2 rfl rfl rfl rfl rfl
theorem rolZp (n : Byte) : Statement (.rolZp n) := of_parts 0x26#8 1 rfl rfl rfl rfl rfl
theorem rolAcc : Statement .rolAcc := of_parts 0x2A#8 0 rfl rfl rfl rfl rfl
theorem rolAbs (w : Word) : Statement (.rolAbs w) := of_parts 0x2E#8 2 rfl rfl rfl rfl rfl
theorem rolZpX (n : Byte) : Statement (.rolZpX n) := of_parts 0x36#8 1 rfl rfl rfl rfl rfl
theorem rolAbsX (w : Word) : Statement (.rolAbsX w) := of_parts 0x3E#8 2 rfl rfl rfl rfl rfl
theorem rorZp (n : Byte) : Statement (.rorZp n) := of_parts 0x66#8 1 rfl rfl rfl rfl rfl
theorem rorAcc : Statement .rorAcc := of_parts 0x6A#8 0 rfl rfl rfl rfl rfl
theorem rorAbs (w : Word) : Statement (.rorAbs w) := of_parts 0x6E#8 2 rfl rfl rfl rfl rfl
theorem rorZpX (n : Byte) : Statement (.rorZpX n) := of_parts 0x76#8 1 rfl rfl rfl rfl rfl
theorem rorAbsX (w : Word) : Statement (.rorAbsX w) := of_parts 0x7E#8 2 rfl rfl rfl rfl rfl
theorem bcc (n : Byte) : Statement (.bcc n) := of_parts 0x90#8 1 rfl rfl rfl rfl rfl
theorem bcs (n : Byte) : Statement (.bcs n) := of_parts 0xB0#8 1 rfl rfl rfl rfl rfl
theorem beq (n : Byte) : Statement (.beq n) := of_parts 0xF0#8 1 rfl rfl rfl rfl rfl
theorem bmi (n : Byte) : Statement (.bmi n) := of_parts 0x30#8 1 rfl rfl rfl rfl rfl
theorem bne (n : Byte) : Statement (.bne n) := of_parts 0xD0#8 1 rfl rfl rfl rfl rfl
theorem bpl (n : Byte) : Statement (.bpl n) := of_parts 0x10#8 1 rfl rfl rfl rfl rfl
theorem bvc (n : Byte) : Statement (.bvc n) := of_parts 0x50#8 1 rfl rfl rfl rfl rfl
theorem bvs (n : Byte) : Statement (.bvs n) := of_parts 0x70#8 1 rfl rfl rfl rfl rfl
theorem jmpAbs (w : Word) : Statement (.jmpAbs w) := of_parts 0x4C#8 2 rfl rfl rfl rfl rfl
theorem jmpInd (w : Word) : Statement (.jmpInd w) := of_parts 0x6C#8 2 rfl rfl rfl rfl rfl
theorem jsr (w : Word) : Statement (.jsr w) := of_parts 0x20#8 2 rfl rfl rfl rfl rfl
theorem rts : Statement .rts := of_parts 0x60#8 0 rfl rfl rfl rfl rfl
theorem rti : Statement .rti := of_parts 0x40#8 0 rfl rfl rfl rfl rfl
theorem brk : Statement .brk := of_parts 0x00#8 0 rfl rfl rfl rfl rfl
theorem pha : Statement .pha := of_parts 0x48#8 0 rfl rfl rfl rfl rfl
theorem php : Statement .php := of_parts 0x08#8 0 rfl rfl rfl rfl rfl
theorem pla : Statement .pla := of_parts 0x68#8 0 rfl rfl rfl rfl rfl
theorem plp : Statement .plp := of_parts 0x28#8 0 rfl rfl rfl rfl rfl
theorem clc : Statement .clc := of_parts 0x18#8 0 rfl rfl rfl rfl rfl
theorem cld : Statement .cld := of_parts 0xD8#8 0 rfl rfl rfl rfl rfl
theorem cli : Statement .cli := of_parts 0x58#8 0 rfl rfl rfl rfl rfl
theorem clv : Statement .clv := of_parts 0xB8#8 0 rfl rfl rfl rfl rfl
theorem sec : Statement .sec := of_parts 0x38#8 0 rfl rfl rfl rfl rfl
theorem sed : Statement .sed := of_parts 0xF8#8 0 rfl rfl rfl rfl rfl
theorem sei : Statement .sei := of_parts 0x78#8 0 rfl rfl rfl rfl rfl
theorem nop : Statement .nop := of_parts 0xEA#8 0 rfl rfl rfl rfl rfl

end Sys2Proof.Laws.Encoding
end

