-- ==== Sys2Proof/Laws/Step.lean ====
section
/-! SUPPORT. What a step can do, said once: the five ways a step answers a next state, and what each leaves alone. -/

namespace Sys2Proof.Machine

/-- The ways a step of the machine answers a next state (R401, R402, R114). -/
inductive StepTo (s : State) : State → Prop where
  | grant (h : s.turn = .idle ∨ s.turn = .grant) : StepTo s (grant s)
  | ppu (dots : Nat) (h : s.turn = .cpu dots) (hc : s.cpu.credit ≤ 0) : StepTo s (ppuTurn dots s)
  | nmi (dots : Nat) (h : s.turn = .cpu dots) (hc : 0 < s.cpu.credit) (hn : s.cpu.nmiPending = true) :
      StepTo s (nmiEntry s)
  | invalid (dots : Nat) (h : s.turn = .cpu dots) (hc : 0 < s.cpu.credit) (hn : s.cpu.nmiPending = false)
      (hf : fetchInstr s = none) : StepTo s (invalidOpcode s)
  | instr (dots : Nat) (i : Instr) (s1 s2 : State) (h : s.turn = .cpu dots) (hc : 0 < s.cpu.credit)
      (hn : s.cpu.nmiPending = false) (hf : fetchInstr s = some (i, s1)) (he : exec i s1 = .next s2) :
      StepTo s (complete i s2)

/-- A step that answers a next state is one of the five, on a machine that is running. -/
theorem step_cases {s t : State} (h : step s = .next t) : s.running = true ∧ StepTo s t := by
  unfold step at h
  split at h
  · cases h
  · rename_i hf
    split at h
    · cases h
    · cases h
    · rename_i hb
      refine ⟨by simp [State.running, hf, hb], ?_⟩
      unfold dispatch at h
      split at h
      · injection h with h
        subst h
        exact .grant (.inl ‹_›)
      · injection h with h
        subst h
        exact .grant (.inr ‹_›)
      · rename_i dots hd
        split at h
        · rename_i hc
          unfold cpuStep at h
          split at h
          · injection h with h
            subst h
            exact .nmi dots hd hc ‹_›
          · rename_i hn
            have hn' : s.cpu.nmiPending = false := by simpa using hn
            unfold instruction at h
            split at h
            · injection h with h
              subst h
              exact .invalid dots hd hc hn' ‹_›
            · rename_i i s1 hfi
              split at h
              · injection h with h
                subst h
                exact .instr dots i s1 _ hd hc hn' hfi ‹_›
              · cases h
              · cases h
        · injection h with h
          subst h
          exact .ppu dots hd (by omega)

/-- A machine whose CPU step is due takes it. -/
theorem step_of_cpuDue {s : State} (h : s.cpuDue = true) : step s = cpuStep s := by
  simp only [State.cpuDue, State.running, Bool.and_eq_true, beq_iff_eq, decide_eq_true_eq] at h
  obtain ⟨⟨⟨h1, h2⟩, h3⟩, h4⟩ := h
  unfold step
  rw [h1, h2]
  unfold dispatch
  simp only
  split at h4
  · rename_i hd
    rw [hd]
    simp [h3]
  · cases h4
  · cases h4

/-- Fetching a byte that is stored (R101). -/
theorem fetchByte_of_peek {s : State} {v : Byte} (h : peek s s.cpu.pc = some v) :
    fetchByte s = (v, { s with cpu := { s.cpu with pc := s.cpu.pc + 1#16 } }) := by
  simp [fetchByte, memRead_of_peek h, State.setCpu]

/-- Fetching changes at most the PPU, the draws, PC and the slot (R101, R205). -/
theorem fetchByte_frame (s : State) :
    (fetchByte s).2 = { s with
      ppu := (fetchByte s).2.ppu, draws := (fetchByte s).2.draws
      cpu := { s.cpu with pc := s.cpu.pc + 1#16 } } := by
  unfold fetchByte
  simp only
  rw [memRead_state]
  rfl

/-- Fetching a byte commutes with taking the slot, and with any other change of the two slot fields (R101, R205). -/
theorem fetchByte_slot (s : State) (carryI pendI : Option Bool) :
    fetchByte { s with cpu := { s.cpu with carryI := carryI, pendI := pendI } }
      = ((fetchByte s).1, { (fetchByte s).2 with
          cpu := { (fetchByte s).2.cpu with carryI := carryI, pendI := pendI } }) := by
  simp only [fetchByte, memRead_withCpu, State.setCpu, memRead_cpu]

/-- Fetching an instruction takes the slot and moves PC; beside that at most the PPU and the draws change (R101, R205). -/
theorem fetchInstr_frame {s t : State} {i : Instr} (h : fetchInstr s = some (i, t)) :
    t = { s with
      ppu := t.ppu, draws := t.draws
      cpu := { s.cpu with pc := t.cpu.pc, carryI := s.cpu.pendI, pendI := none } } := by
  unfold fetchInstr at h
  simp only at h
  rw [fetchByte_frame] at h
  unfold fetchOperand at h
  split at h
  · cases h
  · injection h with h
    injection h with _ h
    subst h
    rfl
  · injection h with h
    injection h with _ h
    subst h
    rw [fetchByte_frame]
    rfl
  · injection h with h
    injection h with _ h
    subst h
    rw [fetchByte_frame]
    simp only
    rw [fetchByte_frame]
    rfl

end Sys2Proof.Machine
end

