-- ==== Sys2Proof/Laws/Storage.lean ====
section
/-! SUPPORT. Every bus operation keeps every storage array canonical and within its size, and a write changes only the
stored byte its address reaches. -/

namespace Sys2Proof.Machine

/-- Every storage array of the machine is canonical and of its size. -/
structure StorageWf (s : State) : Prop where
  ram : s.ram.wf 2048 = true
  oam : s.ppu.oam.wf 256 = true
  pal : palWf s.ppu.pal = true
  ciram : s.ppu.ciram.wf 2048 = true
  cart : s.cart.wf = true

/-- The storage after a hard reset is well formed. -/
theorem reset_storageWf : StorageWf State.reset := ⟨by decide, by decide, by decide, by decide, by decide⟩

theorem palIndex_lt (a : PpuAddr) : palIndex a < 32 := by
  unfold palIndex
  simp only
  split <;> omega

theorem palIndex_ne (a : PpuAddr) :
    palIndex a ≠ 16 ∧ palIndex a ≠ 20 ∧ palIndex a ≠ 24 ∧ palIndex a ≠ 28 := by
  unfold palIndex
  simp only
  split <;> omega

theorem palWf_write {m : Memory 6} (h : palWf m = true) (a : PpuAddr) (v : Colour) :
    palWf (m.write (palIndex a) v) = true := by
  simp only [palWf, Bool.and_eq_true] at h ⊢
  have := palIndex_ne a
  exact ⟨Memory.wf_write h.1 (palIndex_lt a) v, Memory.all_write h.2 (by simp [this])⟩

/-- A nametable cell lies within its array (R377). -/
theorem ntCell_bound (m : Mirroring) (a : PpuAddr) :
    match ntCell m a with
    | .ciram i => i < 2048
    | .fourRam i => i < 4096 ∧ m = .fourScreen := by
  have h := a.isLt
  cases m <;> simp only [ntCell, Mirroring.page]
  case fourScreen => exact ⟨by omega, trivial⟩
  all_goals omega

theorem cart_wf_chr {c : Cartridge} (h : c.wf = true) {a : Nat} (ha : a < 8192) (v : Byte) :
    ({ c with chr := c.chr.write a v } : Cartridge).wf = true := by
  simp only [Cartridge.wf, Bool.and_eq_true] at h ⊢
  exact ⟨⟨⟨⟨⟨h.1.1.1.1.1, Memory.wf_write h.1.1.1.1.2 ha v⟩, h.1.1.1.2⟩, h.1.1.2⟩, h.1.2⟩, h.2⟩

theorem cart_wf_sram {c : Cartridge} (h : c.wf = true) (hs : c.hasSaveRam = true) {a : Nat} (ha : a < 8192)
    (v : Byte) : ({ c with sram := c.sram.write a v } : Cartridge).wf = true := by
  simp only [Cartridge.wf, Bool.and_eq_true] at h ⊢
  exact ⟨⟨⟨⟨h.1.1.1.1, Memory.wf_write h.1.1.1.2 ha v⟩, h.1.1.2⟩, by simp [hs]⟩, h.2⟩

theorem cart_wf_fourRam {c : Cartridge} (h : c.wf = true) (hm : c.mirroring = .fourScreen) {a : Nat} (ha : a < 4096)
    (v : Byte) : ({ c with fourRam := c.fourRam.write a v } : Cartridge).wf = true := by
  simp only [Cartridge.wf, Bool.and_eq_true] at h ⊢
  exact ⟨⟨⟨⟨h.1.1.1.1, h.1.1.1.2⟩, Memory.wf_write h.1.1.2 ha v⟩, h.1.2⟩, by simp [hm]⟩

/-- A PPU-space write keeps the arrays behind it (R76). -/
theorem ppuWrite_wf {p : Ppu} {c : Cartridge} (hpal : palWf p.pal = true) (hc : p.ciram.wf 2048 = true)
    (hcart : c.wf = true) (a : PpuAddr) (v : Byte) :
    palWf (ppuWrite p c a v).1.pal = true ∧ (ppuWrite p c a v).1.ciram.wf 2048 = true
      ∧ (ppuWrite p c a v).1.oam = p.oam ∧ (ppuWrite p c a v).2.wf = true := by
  unfold ppuWrite
  split
  · rename_i ha
    refine ⟨hpal, hc, rfl, ?_⟩
    unfold Cartridge.writeChr
    split
    · exact cart_wf_chr hcart ha v
    · exact hcart
  · split
    · unfold writeNametable
      have hb := ntCell_bound c.mirroring a
      split
      · rename_i i hi
        rw [hi] at hb
        exact ⟨hpal, Memory.wf_write hc hb v, rfl, hcart⟩
      · rename_i i hi
        rw [hi] at hb
        exact ⟨hpal, hc, rfl, cart_wf_fourRam hcart hb.2 hb.1 v⟩
    · exact ⟨palWf_write hpal a _, hc, rfl, hcart⟩

/-- A read keeps the storage. -/
theorem memRead_storageWf {s : State} (h : StorageWf s) (a : Word) : StorageWf (memRead a s).2 := by
  have hp : (memRead a s).2.ppu.oam = s.ppu.oam ∧ (memRead a s).2.ppu.pal = s.ppu.pal
      ∧ (memRead a s).2.ppu.ciram = s.ppu.ciram := by
    rcases memRead_ppu a s with e | e | ⟨b, e⟩ <;> rw [e] <;> exact ⟨rfl, rfl, rfl⟩
  exact ⟨by simpa using h.ram, by rw [hp.1]; exact h.oam, by rw [hp.2.1]; exact h.pal,
    by rw [hp.2.2]; exact h.ciram, by simpa using h.cart⟩

/-- A port write keeps the storage (R300 to R309). -/
theorem portWrite_storageWf {s : State} (h : StorageWf s) (r : Port) (d : Byte) :
    StorageWf ((s.setPpu (portWrite r d s.ppu s.cart).1).setCart (portWrite r d s.ppu s.cart).2) := by
  cases r
  case oamData => exact ⟨h.ram, Memory.wf_write h.oam (BitVec.isLt _) d, h.pal, h.ciram, h.cart⟩
  case data =>
    obtain ⟨h1, h2, h3, h4⟩ := ppuWrite_wf h.pal h.ciram h.cart s.ppu.vramAddr d
    refine ⟨h.ram, ?_, h1, h2, h4⟩
    change Memory.wf 256 (ppuWrite s.ppu s.cart s.ppu.vramAddr d).1.oam = true
    rw [h3]
    exact h.oam
  case scroll =>
    simp only [portWrite]
    split <;> exact ⟨h.ram, h.oam, h.pal, h.ciram, h.cart⟩
  case addr =>
    simp only [portWrite]
    split <;> exact ⟨h.ram, h.oam, h.pal, h.ciram, h.cart⟩
  all_goals exact ⟨h.ram, h.oam, h.pal, h.ciram, h.cart⟩

/-- The copy of an OAM DMA keeps the storage (R72). -/
theorem dmaCopy_storageWf {s : State} (h : StorageWf s) (d : Byte) (n : Nat) : StorageWf (dmaCopy d n s) := by
  induction n with
  | zero => exact h
  | succ n ih =>
    have hr := memRead_storageWf ih (wordOf (BitVec.ofNat 8 n) d)
    exact ⟨hr.ram, Memory.wf_write hr.oam (BitVec.isLt _) _, hr.pal, hr.ciram, hr.cart⟩

/-- Where save RAM's region lies (R70). -/
theorem saveRam_offset {a : Word} {off : Nat} (h : regionOf a = .saveRam off) : off < 8192 := by
  unfold regionOf at h
  simp only at h
  split_ifs at h
  injection h with h
  omega

theorem ram_index {a : Word} {i : Nat} (h : regionOf a = .ram i) : i < 2048 := by
  unfold regionOf at h
  simp only at h
  split_ifs at h
  injection h with h
  omega

/-- Every bus write keeps the storage (R62). -/
theorem memWrite_storageWf {s : State} (h : StorageWf s) (c : Nat) (a : Word) (v : Byte) :
    StorageWf (memWrite c a v s) := by
  unfold memWrite
  split
  · rename_i i hi
    exact ⟨Memory.wf_write h.ram (ram_index hi) v, h.oam, h.pal, h.ciram, h.cart⟩
  · exact portWrite_storageWf h _ v
  · exact h
  · exact h
  · exact h
  · have hd := dmaCopy_storageWf h v 256
    exact ⟨hd.ram, hd.oam, hd.pal, hd.ciram, hd.cart⟩
  · exact h
  · rename_i off hoff
    refine ⟨h.ram, h.oam, h.pal, h.ciram, ?_⟩
    unfold Cartridge.writeSram
    split
    · exact cart_wf_sram h.cart ‹_› (saveRam_offset hoff) v
    · exact h.cart
  · refine ⟨h.ram, h.oam, h.pal, h.ciram, ?_⟩
    unfold Cartridge.writePrg
    exact h.cart
  · refine ⟨h.ram, h.oam, h.pal, h.ciram, ?_⟩
    unfold Cartridge.writePrg
    exact h.cart

/-- A port write changes, of the cartridge, at most CHR and four-screen RAM. -/
theorem portWrite_cart (r : Port) (d : Byte) (p : Ppu) (c : Cartridge) :
    (portWrite r d p c).2
      = { c with chr := (portWrite r d p c).2.chr, fourRam := (portWrite r d p c).2.fourRam } := by
  cases r
  case scroll => simp only [portWrite]; split <;> rfl
  case addr => simp only [portWrite]; split <;> rfl
  case data =>
    simp only [portWrite, ppuWrite, Cartridge.writeChr, writeNametable]
    split
    · split <;> rfl
    · split
      · split <;> rfl
      · rfl
  all_goals rfl

theorem readSram_portWrite (r : Port) (d : Byte) (p : Ppu) (c : Cartridge) (off : Nat) :
    (portWrite r d p c).2.readSram off = c.readSram off := by
  rw [portWrite_cart]
  rfl

theorem readPrg_portWrite (r : Port) (d : Byte) (p : Ppu) (c : Cartridge) (off : Nat) :
    (portWrite r d p c).2.readPrg off = c.readPrg off := by
  rw [portWrite_cart]
  rfl

/-- A bus write changes only the stored byte its address reaches: every other stored byte reads as before. -/
theorem peek_memWrite (c : Nat) {a b : Word} (v : Byte) (s : State) (h : regionOf b ≠ regionOf a) :
    peek (memWrite c a v s) b = peek s b := by
  unfold memWrite
  split
  · rename_i i hi
    rw [hi] at h
    unfold peek
    split <;> try rfl
    rename_i j hj
    rw [hj] at h
    rw [setRam_ram, Memory.read_write_ne _ _ (fun e => h (by rw [e]))]
  · unfold peek
    split <;> try rfl
    · simp only [setCart_cart, readSram_portWrite]
    all_goals simp only [setCart_cart, readPrg_portWrite]
  · rfl
  · rfl
  · rfl
  · unfold oamDma
    simp only
    rw [dmaCopy_state]
    rfl
  · rfl
  · rename_i off hoff
    rw [hoff] at h
    unfold peek Cartridge.writeSram
    split <;> try rfl
    · rename_i j hj
      rw [hj] at h
      simp only [setCart_cart, Cartridge.readSram]
      split
      · rename_i hs
        simp only
        rw [Memory.read_write_ne _ _ (fun e => h (by rw [e]))]
      · simp
    all_goals
      simp only [setCart_cart]
      split <;> rfl
  all_goals
    unfold peek
    split <;> rfl

end Sys2Proof.Machine
end

