-- ==== Sys2Proof/Tests/Slice0.lean ====
section
/-! SUPPORT. The package's own tests: the well-formedness checks, a word of every row's encoding decoded, single steps with the
results 95_test_vectors works out, and for every obligation with hypotheses a state and operands that meet them. -/

open Sys2Proof Sys2Proof.Machine Sys2Proof.Claims

namespace Sys2Proof.Tests

/-! ### Well-formedness: an ill-formed term for each check -/

theorem test_wf_store_has_no_immediate : wellFormedForm .sta (.data (.imm 0x00#8)) = false := by decide
theorem test_wf_load_has_no_zero_page_y : wellFormedForm .lda (.data (.mem (.zpY 0x10#8))) = false := by decide
theorem test_wf_ldx_has_no_zero_page_x : wellFormedForm .ldx (.data (.mem (.zpX 0x10#8))) = false := by decide
theorem test_wf_ldy_has_no_absolute_y : wellFormedForm .ldy (.data (.mem (.absY 0x1000#16))) = false := by decide
theorem test_wf_stx_has_no_zero_page_x : wellFormedForm .stx (.data (.mem (.zpX 0x10#8))) = false := by decide
theorem test_wf_sty_has_no_absolute_x : wellFormedForm .sty (.data (.mem (.absX 0x1000#16))) = false := by decide
theorem test_wf_compare_index_has_no_indexed_mode : wellFormedForm .cpx (.data (.mem (.zpX 0x10#8))) = false := by decide
theorem test_wf_bit_has_no_immediate : wellFormedForm .bit (.data (.imm 0x00#8)) = false := by decide
theorem test_wf_inc_has_no_accumulator : wellFormedForm .inc .acc = false := by decide
theorem test_wf_shift_has_no_absolute_y : wellFormedForm .asl (.data (.mem (.absY 0x1000#16))) = false := by decide
theorem test_wf_branch_has_no_absolute : wellFormedForm .bne (.target 0xC000#16) = false := by decide
theorem test_wf_jump_has_no_relative : wellFormedForm .jmp (.rel 0x00#8) = false := by decide
theorem test_wf_call_has_no_indirect : wellFormedForm .jsr (.pointer 0xC000#16) = false := by decide
theorem test_wf_implied_has_no_operand : wellFormedForm .nop (.data (.imm 0x00#8)) = false := by decide
theorem test_wf_accepts_each_class :
    wellFormedForm .lda (.data (.imm 0x00#8)) = true ∧ wellFormedForm .jmp (.pointer 0xC000#16) = true
      ∧ wellFormedForm .bne (.rel 0x00#8) = true ∧ wellFormedForm .asl .acc = true
      ∧ wellFormedForm .nop .implied = true := by decide

/-! ### Decoding -/

/-- What the decoder reads from table words. -/
def decoded (ws : List (Nat × Nat)) : List (Option Instr) := ws.map fun e => decodeTableWord e.1 e.2

/-- One word of each family written bit by bit: operand bytes above the opcode byte `aaabbbcc` (R100, R115). -/
theorem test_decode_bits :
    decodeTableWord 16 0b0001001010100101 = some (.ldaZp 0b00010010#8)
      ∧ decodeTableWord 24 0b000100000000000001111101 = some (.adcAbsX 0b0001000000000000#16)
      ∧ decodeTableWord 8 0b00101010 = some .rolAcc
      ∧ decodeTableWord 16 0b1000000000010000 = some (.bpl 0b10000000#8)
      ∧ decodeTableWord 24 0b110100000000000000100000 = some (.jsr 0b1101000000000000#16)
      ∧ decodeTableWord 8 0b01101000 = some .pla := by decide

/-- LDA in every mode (the "Encoding" line of its rule). -/
theorem test_decode_lda :
    decoded [(16, 0x00A9), (16, 0x12A5), (16, 0x7FB5), (24, 0xFFFEAD), (24, 0x80A5BD), (24, 0x1234B9),
      (16, 0x12A1), (16, 0x7FB1)]
      = [some (.ldaImm 0x00#8), some (.ldaZp 0x12#8), some (.ldaZpX 0x7F#8), some (.ldaAbs 0xFFFE#16),
        some (.ldaAbsX 0x80A5#16), some (.ldaAbsY 0x1234#16), some (.ldaIndX 0x12#8),
        some (.ldaIndY 0x7F#8)] := by decide

/-- LDX in every mode (the "Encoding" line of its rule). -/
theorem test_decode_ldx :
    decoded [(16, 0x80A2), (16, 0xFFA6), (16, 0x00B6), (24, 0x00FFAE), (24, 0xC000BE)]
      = [some (.ldxImm 0x80#8), some (.ldxZp 0xFF#8), some (.ldxZpY 0x00#8), some (.ldxAbs 0x00FF#16),
        some (.ldxAbsY 0xC000#16)] := by decide

/-- LDY in every mode (the "Encoding" line of its rule). -/
theorem test_decode_ldy :
    decoded [(16, 0x80A0), (16, 0xFFA4), (16, 0x00B4), (24, 0x00FFAC), (24, 0xC000BC)]
      = [some (.ldyImm 0x80#8), some (.ldyZp 0xFF#8), some (.ldyZpX 0x00#8), some (.ldyAbs 0x00FF#16),
        some (.ldyAbsX 0xC000#16)] := by decide

/-- STA in every mode (the "Encoding" line of its rule). -/
theorem test_decode_sta :
    decoded [(16, 0x8085), (16, 0xFF95), (24, 0x12348D), (24, 0x00FF9D), (24, 0xC00099), (16, 0x8081),
      (16, 0xFF91)]
      = [some (.staZp 0x80#8), some (.staZpX 0xFF#8), some (.staAbs 0x1234#16), some (.staAbsX 0x00FF#16),
        some (.staAbsY 0xC000#16), some (.staIndX 0x80#8), some (.staIndY 0xFF#8)] := by decide

/-- STX in every mode (the "Encoding" line of its rule). -/
theorem test_decode_stx :
    decoded [(16, 0x0086), (16, 0x1296), (24, 0xC0008E)]
      = [some (.stxZp 0x00#8), some (.stxZpY 0x12#8), some (.stxAbs 0xC000#16)] := by decide

/-- STY in every mode (the "Encoding" line of its rule). -/
theorem test_decode_sty :
    decoded [(16, 0x8084), (16, 0xFF94), (24, 0x12348C)]
      = [some (.styZp 0x80#8), some (.styZpX 0xFF#8), some (.styAbs 0x1234#16)] := by decide

/-- ADC in every mode (the "Encoding" line of its rule). -/
theorem test_decode_adc :
    decoded [(16, 0x1269), (16, 0x7F65), (16, 0x8075), (24, 0x80A56D), (24, 0x12347D), (24, 0x00FF79),
      (16, 0x7F61), (16, 0x8071)]
      = [some (.adcImm 0x12#8), some (.adcZp 0x7F#8), some (.adcZpX 0x80#8), some (.adcAbs 0x80A5#16),
        some (.adcAbsX 0x1234#16), some (.adcAbsY 0x00FF#16), some (.adcIndX 0x7F#8),
        some (.adcIndY 0x80#8)] := by decide

/-- SBC in every mode (the "Encoding" line of its rule). -/
theorem test_decode_sbc :
    decoded [(16, 0xFFE9), (16, 0x00E5), (16, 0x12F5), (24, 0xC000ED), (24, 0xFFFEFD), (24, 0x80A5F9),
      (16, 0x00E1), (16, 0x12F1)]
      = [some (.sbcImm 0xFF#8), some (.sbcZp 0x00#8), some (.sbcZpX 0x12#8), some (.sbcAbs 0xC000#16),
        some (.sbcAbsX 0xFFFE#16), some (.sbcAbsY 0x80A5#16), some (.sbcIndX 0x00#8),
        some (.sbcIndY 0x12#8)] := by decide

/-- AND in every mode (the "Encoding" line of its rule). -/
theorem test_decode_and :
    decoded [(16, 0x7F29), (16, 0x8025), (16, 0xFF35), (24, 0x12342D), (24, 0x00FF3D), (24, 0xC00039),
      (16, 0x8021), (16, 0xFF31)]
      = [some (.andImm 0x7F#8), some (.andZp 0x80#8), some (.andZpX 0xFF#8), some (.andAbs 0x1234#16),
        some (.andAbsX 0x00FF#16), some (.andAbsY 0xC000#16), some (.andIndX 0x80#8),
        some (.andIndY 0xFF#8)] := by decide

/-- ORA in every mode (the "Encoding" line of its rule). -/
theorem test_decode_ora :
    decoded [(16, 0x0009), (16, 0x1205), (16, 0x7F15), (24, 0xFFFE0D), (24, 0x80A51D), (24, 0x123419),
      (16, 0x1201), (16, 0x7F11)]
      = [some (.oraImm 0x00#8), some (.oraZp 0x12#8), some (.oraZpX 0x7F#8), some (.oraAbs 0xFFFE#16),
        some (.oraAbsX 0x80A5#16), some (.oraAbsY 0x1234#16), some (.oraIndX 0x12#8),
        some (.oraIndY 0x7F#8)] := by decide

/-- EOR in every mode (the "Encoding" line of its rule). -/
theorem test_decode_eor :
    decoded [(16, 0x8049), (16, 0xFF45), (16, 0x0055), (24, 0x00FF4D), (24, 0xC0005D), (24, 0xFFFE59),
      (16, 0xFF41), (16, 0x0051)]
      = [some (.eorImm 0x80#8), some (.eorZp 0xFF#8), some (.eorZpX 0x00#8), some (.eorAbs 0x00FF#16),
        some (.eorAbsX 0xC000#16), some (.eorAbsY 0xFFFE#16), some (.eorIndX 0xFF#8),
        some (.eorIndY 0x00#8)] := by decide

/-- CMP in every mode (the "Encoding" line of its rule). -/
theorem test_decode_cmp :
    decoded [(16, 0x12C9), (16, 0x7FC5), (16, 0x80D5), (24, 0x80A5CD), (24, 0x1234DD), (24, 0x00FFD9),
      (16, 0x7FC1), (16, 0x80D1)]
      = [some (.cmpImm 0x12#8), some (.cmpZp 0x7F#8), some (.cmpZpX 0x80#8), some (.cmpAbs 0x80A5#16),
        some (.cmpAbsX 0x1234#16), some (.cmpAbsY 0x00FF#16), some (.cmpIndX 0x7F#8),
        some (.cmpIndY 0x80#8)] := by decide

/-- CPX in every mode (the "Encoding" line of its rule). -/
theorem test_decode_cpx :
    decoded [(16, 0xFFE0), (16, 0x00E4), (24, 0x00FFEC)]
      = [some (.cpxImm 0xFF#8), some (.cpxZp 0x00#8), some (.cpxAbs 0x00FF#16)] := by decide

/-- CPY in every mode (the "Encoding" line of its rule). -/
theorem test_decode_cpy :
    decoded [(16, 0x7FC0), (16, 0x80C4), (24, 0x80A5CC)]
      = [some (.cpyImm 0x7F#8), some (.cpyZp 0x80#8), some (.cpyAbs 0x80A5#16)] := by decide

/-- INC in every mode (the "Encoding" line of its rule). -/
theorem test_decode_inc :
    decoded [(16, 0x00E6), (16, 0x12F6), (24, 0xC000EE), (24, 0xFFFEFE)]
      = [some (.incZp 0x00#8), some (.incZpX 0x12#8), some (.incAbs 0xC000#16), some (.incAbsX 0xFFFE#16)] := by decide

/-- DEC in every mode (the "Encoding" line of its rule). -/
theorem test_decode_dec :
    decoded [(16, 0xFFC6), (16, 0x00D6), (24, 0x00FFCE), (24, 0xC000DE)]
      = [some (.decZp 0xFF#8), some (.decZpX 0x00#8), some (.decAbs 0x00FF#16), some (.decAbsX 0xC000#16)] := by decide

/-- ASL in every mode (the "Encoding" line of its rule). -/
theorem test_decode_asl :
    decoded [(8, 0x0A), (16, 0xFF06), (16, 0x0016), (24, 0x00FF0E), (24, 0xC0001E)]
      = [some .aslAcc, some (.aslZp 0xFF#8), some (.aslZpX 0x00#8), some (.aslAbs 0x00FF#16),
        some (.aslAbsX 0xC000#16)] := by decide

/-- LSR in every mode (the "Encoding" line of its rule). -/
theorem test_decode_lsr :
    decoded [(8, 0x4A), (16, 0xFF46), (16, 0x0056), (24, 0x00FF4E), (24, 0xC0005E)]
      = [some .lsrAcc, some (.lsrZp 0xFF#8), some (.lsrZpX 0x00#8), some (.lsrAbs 0x00FF#16),
        some (.lsrAbsX 0xC000#16)] := by decide

/-- ROL in every mode (the "Encoding" line of its rule). -/
theorem test_decode_rol :
    decoded [(8, 0x2A), (16, 0xFF26), (16, 0x0036), (24, 0x00FF2E), (24, 0xC0003E)]
      = [some .rolAcc, some (.rolZp 0xFF#8), some (.rolZpX 0x00#8), some (.rolAbs 0x00FF#16),
        some (.rolAbsX 0xC000#16)] := by decide

/-- ROR in every mode (the "Encoding" line of its rule). -/
theorem test_decode_ror :
    decoded [(8, 0x6A), (16, 0xFF66), (16, 0x0076), (24, 0x00FF6E), (24, 0xC0007E)]
      = [some .rorAcc, some (.rorZp 0xFF#8), some (.rorZpX 0x00#8), some (.rorAbs 0x00FF#16),
        some (.rorAbsX 0xC000#16)] := by decide

/-- TAX, TAY, TXA, TYA, TSX, TXS, BIT. -/
theorem test_decode_tax_tay_txa_tya_tsx_txs_bit :
    decoded [(8, 0xAA), (8, 0xA8), (8, 0x8A), (8, 0x98), (8, 0xBA), (8, 0x9A), (16, 0xFF24), (24, 0x12342C)]
      = [some .tax, some .tay, some .txa, some .tya, some .tsx, some .txs, some (.bitZp 0xFF#8),
        some (.bitAbs 0x1234#16)] := by decide

/-- INX, INY, DEX, DEY, BCC, BCS, BEQ, BMI. -/
theorem test_decode_inx_iny_dex_dey_bcc_bcs_beq_bmi :
    decoded [(8, 0xE8), (8, 0xC8), (8, 0xCA), (8, 0x88), (16, 0x0090), (16, 0x12B0), (16, 0x7FF0),
      (16, 0x8030)]
      = [some .inx, some .iny, some .dex, some .dey, some (.bcc 0x00#8), some (.bcs 0x12#8),
        some (.beq 0x7F#8), some (.bmi 0x80#8)] := by decide

/-- BNE, BPL, BVC, BVS, JMP, JSR, RTS. -/
theorem test_decode_bne_bpl_bvc_bvs_jmp_jsr_rts :
    decoded [(16, 0xFFD0), (16, 0x0010), (16, 0x1250), (16, 0x7F70), (24, 0xFFFE4C), (24, 0x80A56C),
      (24, 0x123420), (8, 0x60)]
      = [some (.bne 0xFF#8), some (.bpl 0x00#8), some (.bvc 0x12#8), some (.bvs 0x7F#8),
        some (.jmpAbs 0xFFFE#16), some (.jmpInd 0x80A5#16), some (.jsr 0x1234#16), some .rts] := by decide

/-- RTI, BRK, PHA, PHP, PLA, PLP, CLC, CLD. -/
theorem test_decode_rti_brk_pha_php_pla_plp_clc_cld :
    decoded [(8, 0x40), (8, 0x00), (8, 0x48), (8, 0x08), (8, 0x68), (8, 0x28), (8, 0x18), (8, 0xD8)]
      = [some .rti, some .brk, some .pha, some .php, some .pla, some .plp, some .clc, some .cld] := by decide

/-- CLI, CLV, SEC, SED, SEI, NOP. -/
theorem test_decode_cli_clv_sec_sed_sei_nop :
    decoded [(8, 0x58), (8, 0xB8), (8, 0x38), (8, 0xF8), (8, 0x78), (8, 0xEA)]
      = [some .cli, some .clv, some .sec, some .sed, some .sei, some .nop] := by decide

/-- The bits above the table's are 0: a row of 8 bits decodes with operand bytes of zeros. -/
theorem test_decode_short_word : decodeTableWord 8 0xAD = some (.ldaAbs 0x0000#16) := by decide

/-- V87: bytes of R114's list decode to nothing. -/
theorem test_decode_invalid :
    [0xEB, 0x80, 0x1A, 0xFF, 0x02].map (fun w => decodeTableWord 8 w) = [none, none, none, none, none] := by decide

/-- An instruction cut short is refused. -/
theorem test_decode_truncated : decode [0xAD#8, 0x00#8] = .error .truncated := by decide

/-! ### Single steps (95_test_vectors: the start state is the one after a hard reset, with a 16 KB NROM cartridge) -/

/-- The bytes of `code` in PRG at `pc`. -/
def prgAt : Nat → List Byte → Memory 8 → Memory 8
  | _, [], m => m
  | a, b :: bs, m => prgAt (a + 1) bs (Memory.write m (a % 0x4000) b)

/-- A machine about to run the code at `pc`, with the CPU `c` and work RAM `ram`. -/
def start (pc : Word) (code : List Byte) (c : Cpu) (ram : Memory 8) : State :=
  { State.reset with
    cpu := { c with pc := pc, credit := 1 }, ram := ram, turn := .cpu 3
    cart := { Cartridge.blank with prg := prgAt pc.toNat code [], mirroring := .vertical } }

/-- The CPU after a hard reset. -/
def c0 : Cpu := Cpu.reset 0xC000#16

/-- What a step answers, seen through `f`. -/
def after {α : Type} (s : State) (f : State → α) : Option α :=
  match step s with
  | .next t => some (f t)
  | .fault _ => none
  | .refused _ => none

/-- PC, P and the cycles spent. -/
def pcPCycles (t : State) : Word × Byte × Nat := (t.cpu.pc, t.cpu.p, t.cpu.cycles)

-- V1, V2: LDA immediate.
theorem test_lda_zero : after (start 0xC000#16 [0xA9, 0x00] { c0 with a := 0x05 } []) (fun t => (t.cpu.a, pcPCycles t))
    = some (0x00#8, 0xC002#16, 0x26#8, 2) := by decide
-- V3: LDA absolute,X crossing a page, through the RAM mirror.
theorem test_lda_absX_crossing : after (start 0xC000#16 [0xBD, 0xFF, 0x10] { c0 with x := 0x01 } [(0x100, 0x77#8)])
    (fun t => (t.cpu.a, pcPCycles t)) = some (0x77#8, 0xC003#16, 0x24#8, 5) := by decide
-- V8: LDX zero page,Y wraps in page zero.
theorem test_ldx_zpY_wraps : after (start 0xC000#16 [0xB6, 0xFF] { c0 with y := 0x02 } [(0x01, 0xC3#8)])
    (fun t => (t.cpu.x, pcPCycles t)) = some (0xC3#8, 0xC002#16, 0xA4#8, 4) := by decide
-- R132: LDY immediate.
theorem test_ldy : after (start 0xC000#16 [0xA0, 0x80] c0 []) (fun t => (t.cpu.y, pcPCycles t))
    = some (0x80#8, 0xC002#16, 0xA4#8, 2) := by decide
-- V9: STA through a mirror; V10: STA absolute,Y has no penalty row.
theorem test_sta_mirror : after (start 0xC000#16 [0x8D, 0x00, 0x08] { c0 with a := 0x5A } [])
    (fun t => (t.ram, pcPCycles t)) = some ([(0x000, 0x5A#8)], 0xC003#16, 0x24#8, 4) := by decide
theorem test_sta_absY_fixed_cost : after (start 0xC000#16 [0x99, 0xFF, 0x10] { c0 with a := 0x5A, y := 0x01 } [])
    (fun t => (t.ram, t.cpu.cycles)) = some ([(0x100, 0x5A#8)], 5) := by decide
-- V11: a write to PRG is ignored.
theorem test_sta_rom_ignored : after (start 0xC000#16 [0x8D, 0x00, 0x90] { c0 with a := 0x5A } [])
    (fun t => (t.cart.prg, t.cpu.cycles)) = some ([(0x0000, 0x8D#8), (0x0002, 0x90#8)], 4) := by decide
-- R134, R135: STX and STY, zero page.
theorem test_stx : after (start 0xC000#16 [0x86, 0x10] { c0 with x := 0x5A } []) (fun t => (t.ram, t.cpu.cycles))
    = some ([(0x10, 0x5A#8)], 3) := by decide
theorem test_sty : after (start 0xC000#16 [0x84, 0x10] { c0 with y := 0x5A } []) (fun t => (t.ram, t.cpu.cycles))
    = some ([(0x10, 0x5A#8)], 3) := by decide
-- V12: TXS sets no flag; V13: TSX sets Z; V14: TAX sets N.
theorem test_txs : after (start 0xC000#16 [0x9A] { c0 with p := 0x26 } []) (fun t => (t.cpu.sp, pcPCycles t))
    = some (0x00#8, 0xC001#16, 0x26#8, 2) := by decide
theorem test_tsx : after (start 0xC000#16 [0xBA] { c0 with sp := 0x00 } []) (fun t => (t.cpu.x, pcPCycles t))
    = some (0x00#8, 0xC001#16, 0x26#8, 2) := by decide
theorem test_tax : after (start 0xC000#16 [0xAA] { c0 with a := 0xFF } []) (fun t => (t.cpu.x, pcPCycles t))
    = some (0xFF#8, 0xC001#16, 0xA4#8, 2) := by decide
-- R137 to R139.
theorem test_tay : after (start 0xC000#16 [0xA8] { c0 with a := 0x81 } []) (fun t => (t.cpu.y, t.cpu.p))
    = some (0x81#8, 0xA4#8) := by decide
theorem test_txa : after (start 0xC000#16 [0x8A] { c0 with x := 0x02 } []) (fun t => (t.cpu.a, t.cpu.p))
    = some (0x02#8, 0x24#8) := by decide
theorem test_tya : after (start 0xC000#16 [0x98] { c0 with a := 0x07 } []) (fun t => (t.cpu.a, t.cpu.p))
    = some (0x00#8, 0x26#8) := by decide
-- V5: (indirect),Y crossing a page; V6: (indirect,X) with a pointer that wraps in page zero.
theorem test_indirect_y : after (start 0xC000#16 [0xB1, 0x20] { c0 with y := 0x20 }
    [(0x20, 0xF0#8), (0x21, 0x02#8), (0x310, 0x99#8)]) (fun t => (t.cpu.a, t.cpu.cycles)) = some (0x99#8, 6) := by decide
theorem test_indirect_x : after (start 0xC000#16 [0xA1, 0xFF] c0
    [(0x00, 0x02#8), (0xFF, 0x34#8), (0x234, 0x11#8)]) (fun t => (t.cpu.a, t.cpu.cycles)) = some (0x11#8, 6) := by decide
-- V22, V24: ADC with overflow and carry; D has no effect.
theorem test_adc_overflow : after (start 0xC000#16 [0x69, 0x80] { c0 with a := 0x80 } []) (fun t => (t.cpu.a, t.cpu.p))
    = some (0x00#8, 0x67#8) := by decide
theorem test_adc_binary : after (start 0xC000#16 [0x69, 0x09] { c0 with a := 0x09, p := 0x2C } [])
    (fun t => (t.cpu.a, t.cpu.p)) = some (0x12#8, 0x2C#8) := by decide
-- V26, V28: SBC.
theorem test_sbc_overflow : after (start 0xC000#16 [0xE9, 0x01] { c0 with a := 0x80, p := 0x25 } [])
    (fun t => (t.cpu.a, t.cpu.p)) = some (0x7F#8, 0x65#8) := by decide
theorem test_sbc_borrow : after (start 0xC000#16 [0xE9, 0x05] { c0 with a := 0x05 } []) (fun t => (t.cpu.a, t.cpu.p))
    = some (0xFF#8, 0xA4#8) := by decide
-- V29 to V31.
theorem test_and : after (start 0xC000#16 [0x29, 0x0F] { c0 with a := 0xF0 } []) (fun t => (t.cpu.a, t.cpu.p))
    = some (0x00#8, 0x26#8) := by decide
theorem test_ora : after (start 0xC000#16 [0x09, 0x00] c0 []) (fun t => (t.cpu.a, t.cpu.p)) = some (0x00#8, 0x26#8) := by decide
theorem test_eor : after (start 0xC000#16 [0x49, 0xFF] { c0 with a := 0x0F } []) (fun t => (t.cpu.a, t.cpu.p))
    = some (0xF0#8, 0xA4#8) := by decide
-- V32 to V35.
theorem test_cmp_below : after (start 0xC000#16 [0xC9, 0x01] c0 []) (fun t => (t.cpu.a, t.cpu.p)) = some (0x00#8, 0xA4#8) := by decide
theorem test_cpx_equal : after (start 0xC000#16 [0xE0, 0x10] { c0 with x := 0x10 } []) (fun t => (t.cpu.x, t.cpu.p))
    = some (0x10#8, 0x27#8) := by decide
theorem test_cpy_wraps : after (start 0xC000#16 [0xC0, 0xFF] c0 []) (fun t => t.cpu.p) = some 0x24#8 := by decide
-- V36, V37: BIT.
theorem test_bit_sets : after (start 0xC000#16 [0x24, 0x10] { c0 with a := 0x01 } [(0x10, 0xC0#8)]) pcPCycles
    = some (0xC002#16, 0xE6#8, 3) := by decide
theorem test_bit_clears : after (start 0xC000#16 [0x24, 0x10] { c0 with a := 0xFF, p := 0xE4 } [(0x10, 0x3F#8)]) pcPCycles
    = some (0xC002#16, 0x24#8, 3) := by decide
-- V38 to V42.
theorem test_inc_wraps : after (start 0xC000#16 [0xE6, 0x10] c0 [(0x10, 0xFF#8)]) (fun t => (t.ram, pcPCycles t))
    = some ([], 0xC002#16, 0x26#8, 5) := by decide
theorem test_inc_absX_fixed_cost : after (start 0xC000#16 [0xFE, 0xFF, 0x10] { c0 with x := 0x01 } [(0x100, 0x7F#8)])
    (fun t => (t.ram, pcPCycles t)) = some ([(0x100, 0x80#8)], 0xC003#16, 0xA4#8, 7) := by decide
theorem test_dec_wraps : after (start 0xC000#16 [0xC6, 0x10] c0 []) (fun t => (t.ram, pcPCycles t))
    = some ([(0x10, 0xFF#8)], 0xC002#16, 0xA4#8, 5) := by decide
theorem test_inx_wraps : after (start 0xC000#16 [0xE8] { c0 with x := 0xFF } []) (fun t => (t.cpu.x, pcPCycles t))
    = some (0x00#8, 0xC001#16, 0x26#8, 2) := by decide
theorem test_iny : after (start 0xC000#16 [0xC8] { c0 with y := 0x7F } []) (fun t => (t.cpu.y, t.cpu.p)) = some (0x80#8, 0xA4#8) := by decide
theorem test_dex : after (start 0xC000#16 [0xCA] { c0 with x := 0x01 } []) (fun t => (t.cpu.x, t.cpu.p)) = some (0x00#8, 0x26#8) := by decide
theorem test_dey_wraps : after (start 0xC000#16 [0x88] c0 []) (fun t => (t.cpu.y, pcPCycles t))
    = some (0xFF#8, 0xC001#16, 0xA4#8, 2) := by decide
-- V50 to V57.
theorem test_asl_acc : after (start 0xC000#16 [0x0A] { c0 with a := 0x80 } []) (fun t => (t.cpu.a, pcPCycles t))
    = some (0x00#8, 0xC001#16, 0x27#8, 2) := by decide
theorem test_asl_mem : after (start 0xC000#16 [0x06, 0x10] c0 [(0x10, 0x40#8)]) (fun t => (t.ram, pcPCycles t))
    = some ([(0x10, 0x80#8)], 0xC002#16, 0xA4#8, 5) := by decide
theorem test_lsr_acc : after (start 0xC000#16 [0x4A] { c0 with a := 0x01 } []) (fun t => (t.cpu.a, t.cpu.p)) = some (0x00#8, 0x27#8) := by decide
theorem test_rol_carry_in : after (start 0xC000#16 [0x2A] { c0 with p := 0x25 } []) (fun t => (t.cpu.a, t.cpu.p)) = some (0x01#8, 0x24#8) := by decide
theorem test_ror_carry_in : after (start 0xC000#16 [0x6A] { c0 with p := 0x25 } []) (fun t => (t.cpu.a, t.cpu.p)) = some (0x80#8, 0xA4#8) := by decide
theorem test_ror_mem : after (start 0xC000#16 [0x7E, 0xFF, 0x10] { c0 with x := 0x01, p := 0x25 } [(0x100, 0x02#8)])
    (fun t => (t.ram, pcPCycles t)) = some ([(0x100, 0x81#8)], 0xC003#16, 0xA4#8, 7) := by decide
-- W3, V60 to V63, and R187, R189, R192.
theorem test_beq_taken : after (start 0xC0F0#16 [0xF0, 0x10] { c0 with p := 0x26 } []) pcPCycles = some (0xC102#16, 0x26#8, 4) := by decide
theorem test_beq_not_taken : after (start 0xC000#16 [0xF0, 0x04] c0 []) pcPCycles = some (0xC002#16, 0x24#8, 2) := by decide
theorem test_bne_to_itself : after (start 0xC000#16 [0xD0, 0xFE] c0 []) pcPCycles = some (0xC000#16, 0x24#8, 3) := by decide
theorem test_bpl_back : after (start 0xC010#16 [0x10, 0x80] c0 []) pcPCycles = some (0xBF92#16, 0x24#8, 4) := by decide
theorem test_bcc_forward : after (start 0xC080#16 [0x90, 0x7F] c0 []) pcPCycles = some (0xC101#16, 0x24#8, 4) := by decide
theorem test_bvs_next_page : after (start 0xC0FD#16 [0x70, 0x01] { c0 with p := 0x64 } []) pcPCycles = some (0xC100#16, 0x64#8, 4) := by decide
theorem test_bcs_not_taken : after (start 0xC000#16 [0xB0, 0x04] c0 []) pcPCycles = some (0xC002#16, 0x24#8, 2) := by decide
theorem test_bmi_taken : after (start 0xC000#16 [0x30, 0x04] { c0 with p := 0xA4 } []) pcPCycles = some (0xC006#16, 0xA4#8, 3) := by decide
theorem test_bvc_taken : after (start 0xC000#16 [0x50, 0x04] c0 []) pcPCycles = some (0xC006#16, 0x24#8, 3) := by decide
-- V68, W11: JMP; the pointer's high byte comes from its own page.
theorem test_jmp : after (start 0xC000#16 [0x4C, 0x00, 0xC0] c0 []) pcPCycles = some (0xC000#16, 0x24#8, 3) := by decide
theorem test_jmp_indirect : after (start 0xC000#16 [0x6C, 0xFF, 0x02] c0 [(0x200, 0x12#8), (0x2FF, 0x34#8), (0x300, 0x56#8)]) pcPCycles
    = some (0x1234#16, 0x24#8, 5) := by decide
-- V64 to V67.
theorem test_jsr_wraps_sp : after (start 0xC000#16 [0x20, 0x00, 0xD0] { c0 with sp := 0x00 } []) (fun t => (t.ram, t.cpu.sp, pcPCycles t))
    = some ([(0x100, 0xC0#8), (0x1FF, 0x02#8)], 0xFE#8, 0xD000#16, 0x24#8, 6) := by decide
theorem test_rts_wraps_pc : after (start 0xC000#16 [0x60] c0 [(0x1FE, 0xFF#8), (0x1FF, 0xFF#8)]) (fun t => (t.cpu.sp, pcPCycles t))
    = some (0xFF#8, 0x0000#16, 0x24#8, 6) := by decide
theorem test_rti : after (start 0xC000#16 [0x40] { c0 with sp := 0xFA } [(0x1FB, 0xFF#8), (0x1FD, 0xC1#8)]) (fun t => (t.cpu.sp, pcPCycles t))
    = some (0xFD#8, 0xC100#16, 0xEF#8, 6) := by decide
theorem test_brk : after { start 0xC100#16 [0x00] { c0 with p := 0x20 } [] with
      cart := { Cartridge.blank with prg := [(0x3FFF, 0xD0#8)] } } (fun t => (t.ram, t.cpu.sp, pcPCycles t))
    = some ([(0x1FB, 0x30#8), (0x1FC, 0x02#8), (0x1FD, 0xC1#8)], 0xFA#8, 0xD000#16, 0x24#8, 7) := by decide
-- V78: BRK discards the carried I.
theorem test_brk_discards_carried_i : after (start 0xC000#16 [0x00] { c0 with pendI := some false } []) (fun t => (t.ram.read 0x1FB, t.cpu.p, t.cpu.pendI))
    = some (0x34#8, 0x24#8, none) := by decide
-- V70 to V72.
theorem test_pha_wraps : after (start 0xC000#16 [0x48] { c0 with a := 0x42, sp := 0x00 } []) (fun t => (t.ram, t.cpu.sp, t.cpu.cycles))
    = some ([(0x100, 0x42#8)], 0xFF#8, 3) := by decide
theorem test_pla_wraps : after (start 0xC000#16 [0x68] { c0 with a := 0x42, sp := 0xFF } []) (fun t => (t.cpu.a, t.cpu.sp, pcPCycles t))
    = some (0x00#8, 0x00#8, 0xC001#16, 0x26#8, 4) := by decide
theorem test_plp : after (start 0xC000#16 [0x28] { c0 with sp := 0xFC } [(0x1FD, 0xFF#8)]) (fun t => (t.cpu.pendI, t.cpu.sp, pcPCycles t))
    = some (some true, 0xFD#8, 0xC001#16, 0xEF#8, 4) := by decide
-- V74: PHP after CLI still sees the old I and completes with the new one.
theorem test_php_after_cli : after (start 0xC001#16 [0x08] { c0 with pendI := some false } []) (fun t => (t.ram, t.cpu.p, t.cpu.pendI))
    = some ([(0x1FD, 0x34#8)], 0x20#8, none) := by decide
-- V74, V75: CLI defers; a second CLI completes the first.
theorem test_cli : after (start 0xC000#16 [0x58] c0 []) (fun t => (t.cpu.pendI, pcPCycles t)) = some (some false, 0xC001#16, 0x24#8, 2) := by decide
theorem test_cli_cli : after (start 0xC001#16 [0x58] { c0 with pendI := some false } []) (fun t => (t.cpu.pendI, t.cpu.p)) = some (some false, 0x20#8) := by decide
-- V76: SEI defers, NOP completes it.
theorem test_sei : after (start 0xC000#16 [0x78] { c0 with p := 0x20 } []) (fun t => (t.cpu.pendI, t.cpu.p)) = some (some true, 0x20#8) := by decide
theorem test_nop_completes_sei : after (start 0xC001#16 [0xEA] { c0 with p := 0x20, pendI := some true } []) (fun t => (t.cpu.pendI, pcPCycles t))
    = some (none, 0xC002#16, 0x24#8, 2) := by decide
-- V80.
theorem test_clc : after (start 0xC000#16 [0x18] { c0 with p := 0x25 } []) pcPCycles = some (0xC001#16, 0x24#8, 2) := by decide
theorem test_sec : after (start 0xC000#16 [0x38] c0 []) pcPCycles = some (0xC001#16, 0x25#8, 2) := by decide
theorem test_cld : after (start 0xC000#16 [0xD8] { c0 with p := 0x2C } []) pcPCycles = some (0xC001#16, 0x24#8, 2) := by decide
theorem test_sed : after (start 0xC000#16 [0xF8] c0 []) pcPCycles = some (0xC001#16, 0x2C#8, 2) := by decide
theorem test_clv : after (start 0xC000#16 [0xB8] { c0 with p := 0x64 } []) pcPCycles = some (0xC001#16, 0x24#8, 2) := by decide
-- V85: an invalid opcode sets the mark and nothing else; the next step is the fault.
theorem test_invalid_opcode : after (start 0xC002#16 [0x02] { c0 with a := 0x01 } []) (fun t => (t.fault, t.cpu.a, pcPCycles t))
    = some (some (.invalidOpcode 0x02#8 0xC002#16), 0x01#8, 0xC002#16, 0x24#8, 0) := by decide
-- W12: NMI entry.
theorem test_nmi_entry : after { start 0xC123#16 [] { c0 with p := 0xA5, nmiPending := true } [] with
      cart := { Cartridge.blank with prg := [(0x3FFB, 0xE0#8)] } } (fun t => (t.ram, t.cpu.sp, t.cpu.nmiPending, pcPCycles t))
    = some ([(0x1FB, 0xA5#8), (0x1FC, 0x23#8), (0x1FD, 0xC1#8)], 0xFA#8, false, 0xE000#16, 0xA5#8, 7) := by decide
-- V79: NMI entry resolves the pending I first.
theorem test_nmi_resolves_pending_i : after (start 0xC001#16 [] { c0 with pendI := some false, nmiPending := true } [])
    (fun t => (t.ram.read 0x1FB, t.cpu.p, t.cpu.pendI)) = some (0x20#8, 0x24#8, none) := by decide

/-! ### Ports, PPU, cartridge -/

/-- A PPU in reset with some fields changed, and what a port write leaves. -/
def p0 : Ppu := State.reset.ppu
def written (r : Port) (d : Byte) (p : Ppu) : Ppu := (portWrite r d p Cartridge.blank).1

-- V90 to V92.
theorem test_ctrl_write : (written .ctrl 0x03 p0).t = 0x0C00#15 := by decide
theorem test_scroll_writes : (written .scroll 0x7D p0).t = 0x000F#15 ∧ (written .scroll 0x7D p0).x = 5#3
    ∧ (written .scroll 0x5E (written .scroll 0x7D p0)).t = 0x616F#15 := by decide
theorem test_addr_first_write : (written .addr 0xFF { p0 with t := 0x0C00 }).t = 0x3F00#15 := by decide
-- V93: a palette read is immediate and fills the buffer from the nametable beneath (vertical mirroring).
theorem test_palette_read :
    vramRead { p0 with v := 0x3F01, pal := [(1, 0x2A#6)], ciram := [(0x701, 0x5C#8)] }
        { Cartridge.blank with mirroring := .vertical }
      = (0x2A#8, { p0 with v := 0x3F02, pal := [(1, 0x2A#6)], ciram := [(0x701, 0x5C#8)], rdbuf := 0x5C }) := by decide
-- W10: $3F10 is $3F00.
theorem test_palette_alias : (ppuWrite p0 Cartridge.blank 0x3F10 0xEC).1.pal = [(0, 0x2C#6)] := by decide
-- V96: $2004 wraps.
theorem test_oam_data : (written .oamData 0x12 { p0 with oamaddr := 0xFF }).oam = [(0xFF, 0x12#8)]
    ∧ (written .oamData 0x12 { p0 with oamaddr := 0xFF }).oamaddr = 0x00#8 := by decide
-- V100 to V107.
theorem test_incX : [0x0000#15, 0x001F, 0x041F, 0x7000, 0x73A0, 0x6FA5].map incX
    = [0x0001, 0x0400, 0x0000, 0x7001, 0x73A1, 0x6FA6] := by decide
theorem test_incY : [0x0000#15, 0x001F, 0x7000, 0x73A0, 0x73E0, 0x7BA0, 0x6FA5].map incY
    = [0x1000, 0x101F, 0x0020, 0x0800, 0x0000, 0x0000, 0x7FA5] := by decide
-- V116: CopyY.
theorem test_copyY : copyY 0x7FFF#15 0x0C00#15 = 0x0800#15 ||| (0x7FFF#15 &&& 0x041F#15) := by decide
/-- OAM with the vertical bytes of the listed objects, the others $F0 (W7, V120 to V124). -/
def oamWith (ys : List (Nat × Byte)) : Memory 8 :=
  (List.range 64).foldl (fun m n => Memory.write m (4 * n) ((ys.lookup n).getD 0xF0#8)) []
-- W7, V120 to V122: nine objects, the ninth sets overflow.
theorem test_nine_objects :
    let p := { p0 with oam := oamWith ((List.range 9).map fun n => (n, 0x0F#8)) }
    (evaluateObjects 16 p).sec = [0, 1, 2, 3, 4, 5, 6, 7] ∧ (evaluateObjects 16 p).overflow = true
      ∧ (evaluateObjects 15 p).sec = [] ∧ (evaluateObjects 24 p).sec = [] ∧ (evaluateObjects 24 p).overflow = false := by
  decide
-- V124: a 16-high object's last row.
theorem test_tall_object : (evaluateObjects 48 { p0 with ctrl := 0x20, oam := oamWith [(0, 0x20#8)] }).sec = [0] := by decide
-- V112, V114: the two events of dot 1.
theorem test_vblank_start : (tick { State.reset with ppu := { p0 with scanline := 241, dot := 1, ctrl := 0x80 } }).1.cpu.nmiPending = true := by decide
theorem test_prerender_clear : (tick { State.reset with ppu := { p0 with scanline := 261, dot := 1, vblank := true, spr0hit := true } }).1.ppu.vblank = false := by decide
-- V130 to V134: which palette entry a pixel takes.
theorem test_priority : [layerIndex ⟨false, 0⟩ none, layerIndex ⟨true, 5⟩ none, layerIndex ⟨false, 0⟩ (some ⟨17, true, 0⟩),
    layerIndex ⟨true, 5⟩ (some ⟨17, false, 0⟩), layerIndex ⟨true, 5⟩ (some ⟨17, true, 0⟩)] = [0, 5, 17, 17, 5] := by decide
-- V140 to V144: nametable indices.
theorem test_horizontal : [0x2000#14, 0x2400, 0x2800, 0x2C00, 0x2FFF, 0x3000, 0x3EFF].map (ntCell .horizontal)
    = [.ciram 0, .ciram 0, .ciram 0x400, .ciram 0x400, .ciram 0x7FF, .ciram 0, .ciram 0x6FF] := by decide
theorem test_vertical : [0x2000#14, 0x2400, 0x2800, 0x2C00, 0x2FFF, 0x3000, 0x3EFF].map (ntCell .vertical)
    = [.ciram 0, .ciram 0x400, .ciram 0, .ciram 0x400, .ciram 0x7FF, .ciram 0, .ciram 0x6FF] := by decide
theorem test_four_screen : [0x2000#14, 0x2400, 0x2800, 0x2C00, 0x2FFF, 0x3000, 0x3EFF].map (ntCell .fourScreen)
    = [.fourRam 0, .fourRam 0x400, .fourRam 0x800, .fourRam 0xC00, .fourRam 0xFFF, .fourRam 0, .fourRam 0xEFF] := by decide
-- W8, V145: PRG of 16 KB shows in both windows, of 32 KB once.
theorem test_prg_windows : ({ Cartridge.blank with prg := [(0x123, 0x5A#8)] } : Cartridge).readPrg 0x4123 = 0x5A#8
    ∧ ({ Cartridge.blank with prg := [(0x4000, 0x5A#8)], prgSize := .kb32 } : Cartridge).readPrg 0x4000 = 0x5A#8 := by decide
-- V162: an odd cost makes the stall 514.
theorem test_dma_stall : dmaStall 6 = 513 ∧ dmaStall 7 = 514 := by decide
-- V163: the copy starts at oamaddr and wraps.
theorem test_dma_offset : (dmaCopy 0x02 3 { State.reset with ram := [(0x200, 0x11#8), (0x202, 0x33#8)], ppu := { p0 with oamaddr := 0xFE } }).ppu.oam
    = [(0x00, 0x33#8), (0xFE, 0x11#8)] := by decide
-- V170 to V172: soft reset.
theorem test_soft_reset : (softResetState { State.reset with cpu := { c0 with sp := 0x01, p := 0xC3 } }).cpu.sp = 0xFE#8
    ∧ (softResetState { State.reset with cpu := { c0 with sp := 0x01, p := 0xC3 } }).cpu.p = 0xC7#8 := by decide
-- R461, D19, log 17: a soft reset keeps the position and the object buffer, and clears ctrl.
theorem test_soft_reset_keeps : ({ p0 with dot := 5, ctrl := 0x80, sec := [3] } : Ppu).softReset = { p0 with dot := 5, sec := [3] } := by decide
-- R44, R345: the tick that completes a frame hands the buffer over and leaves no entry to read.
theorem test_frame_handed_over :
    let p := { p0 with dot := 340, scanline := 261, fb := [(7, [⟨0x2C#6, 0#2⟩])] }
    (tick { State.reset with ppu := p }).1.ppu.pixel 7 0 = none ∧ p.pixel 7 0 = some ⟨0x2C#6, 0#2⟩
      ∧ (tick { State.reset with ppu := p }).1.ppu.frame = p.fb := by decide
-- W6: the state the model calls reset is the one a hard reset leaves.
theorem test_hard_reset : hardResetState ⟨[], [], [], []⟩ State.reset = State.reset := by decide
-- The word stored for the host's check is the very next instruction.
theorem test_with_fetch_word : after (State.reset.withFetchWord 16 0x42A9) (fun t => (t.cpu.a, pcPCycles t))
    = some (0x42#8, 0x0002#16, 0x24#8, 2) := by decide
-- Log 1: the first step from reset grants the CPU its cycle, the second runs the instruction at PC.
theorem test_first_step : after State.reset (fun t => (t.turn, t.cpu.credit, t.cpu.pc)) = some (.cpu 3, 1, 0x0000#16) := by decide
/-- Buildable inputs, and inputs the build refuses (V152, V153). -/
theorem test_build_refuses (small large : List Byte) (hs : small.length = 16384) (hl : large.length = 49152) :
    (buildCartridge ⟨[], []⟩ ⟨0, small, none, .vertical, false⟩).isOk = true
      ∧ buildCartridge ⟨[], []⟩ ⟨1, small, none, .vertical, false⟩ = .error (.unsupportedMapper 1)
      ∧ buildCartridge ⟨[], []⟩ ⟨0, large, none, .vertical, false⟩ = .error .unsupportedSize
      ∧ buildCartridge ⟨[], []⟩ ⟨0, small, some [], .vertical, false⟩ = .error .unsupportedSize := by
  simp [buildCartridge, CartImage.prgSize, CartImage.chrSizeOk, hs, hl, Except.isOk, Except.toBool]
-- V151: bad magic is refused.
theorem test_format_error : loadCartridge ⟨[], []⟩ [0x4E, 0x45, 0x53] = .error .format := by decide

/-! ### Witnesses: for every obligation with hypotheses, a state and operands that meet them all -/

/-- A machine about to run one NOP at $C000. -/
def nopState : State := start 0xC000#16 [0xEA] c0 []

/-- A step that answers a next state. -/
theorem step_of_after {s : State} (h : after s (fun _ => true) = some true) : ∃ t, step s = .next t := by
  unfold after at h
  split at h
  · exact ⟨_, ‹_›⟩
  · cases h
  · cases h

theorem witness_DecodedBytesAreTheEncoding : decode [0xEA#8, 0x12#8] = .ok (.nop, [0x12#8]) := by decide

/-- The clause over fetches, with PC standing at the object-data port whose byte is a NOP (R305), and the clause over stored bytes. -/
theorem witness_StepRunsTheDecodedInstruction_port :
    let s := { start 0x2004#16 [] c0 [] with ppu := { p0 with oam := oamWith [(0, 0xEA#8)] } }
    s.cpuDue = true ∧ s.cpu.nmiPending = false ∧ (fetches Instr.nop.length s).1 = encode .nop
      ∧ ∃ t, exec .nop { (fetches Instr.nop.length s).2 with
          cpu := { (fetches Instr.nop.length s).2.cpu with carryI := none, pendI := none } } = .next t :=
  ⟨by decide, by decide, by decide, exec_next _ _⟩

theorem witness_StepRunsTheDecodedInstruction :
    (start 0xC000#16 [0x8D, 0x00, 0x08] c0 []).cpuDue = true
      ∧ (start 0xC000#16 [0x8D, 0x00, 0x08] c0 []).cpu.nmiPending = false
      ∧ (∀ k : Nat, k < (Instr.staAbs 0x0800#16).length →
          peek (start 0xC000#16 [0x8D, 0x00, 0x08] c0 []) (0xC000#16 + BitVec.ofNat 16 k) = (encode (.staAbs 0x0800#16))[k]?)
      ∧ ∃ t, exec (.staAbs 0x0800#16) { start 0xC000#16 [0x8D, 0x00, 0x08] c0 [] with
          cpu := { (start 0xC000#16 [0x8D, 0x00, 0x08] c0 []).cpu with pc := 0xC003#16, carryI := none, pendI := none } } = .next t :=
  ⟨by decide, by decide, by decide, exec_next _ _⟩

/-- The two clauses: the opcode $02 about to be fetched, and a set mark. -/
theorem witness_InvalidOpcodeFaultsTheMachine :
    ((start 0xC000#16 [0x02] c0 []).cpuDue = true ∧ (start 0xC000#16 [0x02] c0 []).cpu.nmiPending = false
      ∧ (memRead 0xC000#16 (start 0xC000#16 [0x02] c0 [])).1 ∈ invalidOpcodes)
    ∧ { nopState with fault := some (.invalidOpcode 0x02#8 0xC000#16) }.fault = some (.invalidOpcode 0x02#8 0xC000#16) := by
  decide

/-- With no pending I and with either value pending. -/
theorem witness_PendingNmiIsEntered :
    [none, some false, some true].all (fun v =>
      (start 0xC000#16 [] { c0 with nmiPending := true, pendI := v } []).cpuDue
        && (start 0xC000#16 [] { c0 with nmiPending := true, pendI := v } []).cpu.nmiPending) = true := by decide

theorem witness_LoadsWriteTheirRegister :
    (Instr.ldaImm 0x80#8).operand = .data (.imm 0x80#8) ∧ (Instr.ldaImm 0x80#8).mnemonic = .lda
      ∧ (Instr.ldxAbsY 0x10FF#16).operand = .data (.mem (.absY 0x10FF#16)) ∧ (Instr.ldxAbsY 0x10FF#16).mnemonic = .ldx
      ∧ (Instr.ldyZpX 0xFF#8).operand = .data (.mem (.zpX 0xFF#8)) ∧ (Instr.ldyZpX 0xFF#8).mnemonic = .ldy := by decide

theorem witness_RegisterTransfersAndCounts :
    [Instr.tax, .tay, .txa, .tya, .tsx, .txs, .inx, .iny, .dex, .dey].all
      (fun i => (registerEffect c0 i.mnemonic).isSome) = true := by decide

theorem witness_StoresWriteTheRegister :
    (Instr.staIndY 0xFF#8).operand = .data (.mem (.indY 0xFF#8)) ∧ storedRegister c0 (Instr.staIndY 0xFF#8).mnemonic = some 0x00#8
      ∧ (Instr.stxZpY 0x10#8).operand = .data (.mem (.zpY 0x10#8)) ∧ storedRegister c0 (Instr.stxZpY 0x10#8).mnemonic = some 0x00#8
      ∧ (Instr.styAbs 0x4014#16).operand = .data (.mem (.abs 0x4014#16))
      ∧ storedRegister c0 (Instr.styAbs 0x4014#16).mnemonic = some 0x00#8 := by decide

theorem witness_AdcAddsWithCarry :
    (Instr.adcAbsX 0x10FF#16).operand = .data (.mem (.absX 0x10FF#16)) ∧ (Instr.adcAbsX 0x10FF#16).mnemonic = .adc := by decide

theorem witness_SbcSubtractsWithBorrow :
    (Instr.sbcImm 0xFF#8).operand = .data (.imm 0xFF#8) ∧ (Instr.sbcImm 0xFF#8).mnemonic = .sbc := by decide

theorem witness_LogicWritesTheAccumulator :
    (Instr.andImm 0x0F#8).operand = .data (.imm 0x0F#8)
      ∧ logicResult 0xF0#8 (src (.imm 0x0F#8) nopState).value (Instr.andImm 0x0F#8).mnemonic = some 0x00#8
      ∧ logicResult 0xF0#8 (src (.imm 0x0F#8) nopState).value (Instr.oraImm 0x0F#8).mnemonic = some 0xFF#8
      ∧ logicResult 0xFF#8 (src (.imm 0x0F#8) nopState).value (Instr.eorImm 0x0F#8).mnemonic = some 0xF0#8 := by decide

theorem witness_ComparesAndBitSetFlags :
    (Instr.cmpImm 0x00#8).operand = .data (.imm 0x00#8) ∧ comparedRegister c0 (Instr.cmpImm 0x00#8).mnemonic = some 0x00#8
      ∧ comparedRegister c0 (Instr.cpxImm 0x00#8).mnemonic = some 0x00#8
      ∧ comparedRegister c0 (Instr.cpyImm 0x00#8).mnemonic = some 0x00#8
      ∧ (Instr.bitZp 0x10#8).operand = .data (.mem (.zp 0x10#8)) ∧ (Instr.bitZp 0x10#8).mnemonic = .bit := by decide

theorem witness_IncDecModifyMemory :
    (Instr.incAbsX 0x10FF#16).operand = .data (.mem (.absX 0x10FF#16)) ∧ (Instr.incAbsX 0x10FF#16).mnemonic = .inc
      ∧ (Instr.decZp 0xFF#8).operand = .data (.mem (.zp 0xFF#8)) ∧ (Instr.decZp 0xFF#8).mnemonic = .dec := by decide

/-- The accumulator form and the memory form. -/
theorem witness_ShiftsAndRotates :
    (Instr.rorAcc.operand = .acc ∧ shiftEffect 0xFF 1 Instr.rorAcc.mnemonic = some (0xFF, true)
      ∧ [Instr.aslAcc, .lsrAcc, .rolAcc, .rorAcc].all (fun i => (shiftEffect 128 0 i.mnemonic).isSome) = true)
    ∧ (Instr.rolZp 0x10#8).operand = .data (.mem (.zp 0x10#8))
      ∧ shiftEffect (memRead (effAddr (.zp 0x10#8) nopState).addr nopState).1.toNat (carry nopState.cpu.p)
          (Instr.rolZp 0x10#8).mnemonic = some (0, false) := by decide

/-- Each branch, taken and not. -/
theorem witness_BranchesTestTheirFlag :
    (Instr.bne 0xFE#8).operand = .rel 0xFE#8
      ∧ [Instr.bcc 0, .bcs 0, .beq 0, .bmi 0, .bne 0, .bpl 0, .bvc 0, .bvs 0].map (fun i => branchCondition 0x00#8 i.mnemonic)
        = [some true, some false, some false, some false, some true, some true, some true, some false]
      ∧ [Instr.bcc 0, .bcs 0, .beq 0, .bmi 0, .bne 0, .bpl 0, .bvc 0, .bvs 0].map (fun i => branchCondition 0xFF#8 i.mnemonic)
        = [some false, some true, some true, some true, some false, some false, some false, some true] := by decide

theorem witness_FlagInstructionsAndNop :
    [Instr.clc, .sec, .cld, .sed, .clv, .nop].all (fun i => (flagEffect 0xFF#8 i.mnemonic).isSome) = true := by decide

theorem witness_EveryInstructionCostsItsTableEntry : ∃ t, exec (.staAbs 0x4014#16) nopState = .next t := exec_next _ _

/-- The frame's clauses: an instruction that writes none of the registers, and one each that writes the one the others keep. -/
theorem witness_InstructionsChangeOnlyTheirRegisters :
    (∃ t, exec .nop nopState = .next t)
      ∧ writesA .nop = false ∧ Instr.nop.operand ≠ .acc ∧ writesX .nop = false ∧ writesY .nop = false ∧ writesSp .nop = false
      ∧ writesPc .nop = false ∧ writesPendI .nop = false ∧ writesA .asl = false := by
  refine ⟨exec_next _ _, ?_⟩
  decide

theorem witness_InstructionsStoreOnlyWhereTheySay :
    (∃ t, exec (.jsr 0xD000#16) nopState = .next t)
      ∧ regionOf 0x01FB#16 ∉ storedTo (.jsr 0xD000#16) nopState
      ∧ regionOf 0x01FD#16 ∈ storedTo (.jsr 0xD000#16) nopState := by
  refine ⟨exec_next _ _, ?_⟩
  decide

theorem witness_PpuChangesOnlyThroughPorts :
    (∃ t, exec (.jmpInd 0x02FF#16) nopState = .next t)
      ∧ (∀ a ∈ dataAddresses (.jmpInd 0x02FF#16) nopState, ∀ r, regionOf a ≠ .port r)
      ∧ (∀ a ∈ dataAddresses (.jmpInd 0x02FF#16) nopState,
          regionOf a ≠ .oamDma ∧ regionOf a ≠ .audio ∧ regionOf a ≠ .audioStatus ∧ regionOf a ≠ .input) := by
  have h : dataAddresses (.jmpInd 0x02FF#16) nopState = [0x02FF#16, 0x0200#16] := by decide
  have h1 : regionOf 0x02FF#16 = .ram 0x2FF := by decide
  have h2 : regionOf 0x0200#16 = .ram 0x200 := by decide
  rw [h]
  refine ⟨exec_next _ _, ?_, ?_⟩
  · simp [h1, h2]
  · simp [h1, h2]

/-- The ends of every row of the decoder, with the region each reaches (R60). -/
theorem witness_BusDecodesEveryAddress :
    [0x0000#16, 0x1FFF, 0x2000, 0x3FFF, 0x4000, 0x4013, 0x4014, 0x4015, 0x4016, 0x4017].map regionOf
      = [.ram 0, .ram 0x7FF, .port .ctrl, .port .data, .audio, .audio, .oamDma, .audioStatus, .input, .input]
    ∧ [0x4018#16, 0x5FFF, 0x6000, 0x7FFF, 0x8000, 0xBFFF, 0xC000, 0xFFFF].map regionOf
      = [.expansion, .expansion, .saveRam 0, .saveRam 0x1FFF, .prgLow 0, .prgLow 0x3FFF, .prgHigh 0x4000, .prgHigh 0x7FFF]
    ∧ nopState.cart.hasSaveRam = false
    ∧ { nopState with cart := { nopState.cart with hasSaveRam := true } }.cart.hasSaveRam = true := by decide

theorem witness_RamReadsBackThroughItsMirrors :
    nopState.wf = true ∧ (0x1FFF#16).toNat < 0x2000 ∧ (0x07FF#16).toNat < 0x2000
      ∧ (0x1FFF#16).toNat % 0x800 = (0x07FF#16).toNat % 0x800 := by decide

theorem witness_ReadSideEffects :
    regionOf 0x2004#16 ≠ .port .status ∧ regionOf 0x2004#16 ≠ .port .data ∧ peek nopState 0xC000#16 = some 0xEA#8 := by decide

set_option maxRecDepth 20000 in
/-- A page of RAM, and the last page of PRG. -/
theorem witness_OamDmaCopiesThePage :
    State.reset.wf = true
      ∧ (∀ k : Nat, k < 256 → peek State.reset (BitVec.ofNat 16 (256 * (0x02#8).toNat + k)) = some ((fun _ => 0x00#8) k))
      ∧ (∀ k : Nat, k < 256 → peek State.reset (BitVec.ofNat 16 (256 * (0xFF#8).toNat + k)) = some ((fun _ => 0x00#8) k)) := by
  decide

theorem witness_ScrollAndAddressWrites : p0.w = false ∧ { p0 with w := true }.w = true := by decide

theorem witness_ControlAndObjectPorts :
    [Port.ctrl, .mask, .oamAddr, .scroll, .addr].all (fun r =>
      r = .ctrl ∨ r = .mask ∨ r = .oamAddr ∨ r = .scroll ∨ r = .addr) = true := by decide

theorem witness_VramDataPort :
    { p0 with v := 0x3EFF#15 }.v.toNat % 0x4000 < 0x3F00 ∧ 0x3F00 ≤ { p0 with v := 0x7F00#15 }.v.toNat % 0x4000 := by decide

theorem witness_PpuAddressSpace :
    (0x1FFF#14).toNat < 0x2000 ∧ 0x2000 ≤ (0x2000#14).toNat ∧ (0x3EFF#14).toNat < 0x3F00 ∧ 0x3F00 ≤ (0x3F00#14).toNat
      ∧ 0x3F00 ≤ (0x3FFF#14).toNat := by decide

theorem witness_NametablesAreMirrored :
    0x2000 ≤ (0x2000#14).toNat ∧ (0x2000#14).toNat < 0x3F00 ∧ 0x2000 ≤ (0x3EFF#14).toNat ∧ (0x3EFF#14).toNat < 0x3F00
      ∧ [Mirroring.horizontal, .vertical, .singleScreenA, .singleScreenB, .fourScreen].map
          (fun m => ({ Cartridge.blank with mirroring := m } : Cartridge).mirroring)
        = [.horizontal, .vertical, .singleScreenA, .singleScreenB, .fourScreen] := by decide

/-- An entry at its own address, at a mirror, and at the alias of a background cell. -/
theorem witness_PaletteRoundTrip :
    p0.wf = true ∧ 0x3F00 ≤ (0x3F1C#14).toNat ∧ 0x3F00 ≤ (0x3F0C#14).toNat
      ∧ (0x3F3F#14).toNat % 32 = (0x3FFF#14).toNat % 32
      ∧ ((0x3F1C#14).toNat % 4 = 0 ∧ (0x3F0C#14).toNat % 16 = (0x3F1C#14).toNat % 16) := by decide

/-- A value for each clause, at the ends of its range. -/
theorem witness_LoopyRegisterOperations :
    (0x001E#15).toNat % 32 ≠ 31 ∧ (0x001F#15).toNat % 32 = 31 ∧ (0x6FFF#15).toNat < 0x7000
      ∧ (0x7000 ≤ (0x73A0#15).toNat ∧ (0x73A0#15).toNat / 32 % 32 = 29)
      ∧ (0x7000 ≤ (0x73E0#15).toNat ∧ (0x73E0#15).toNat / 32 % 32 = 31)
      ∧ (0x7000 ≤ (0x7000#15).toNat ∧ (0x7000#15).toNat / 32 % 32 ≠ 29 ∧ (0x7000#15).toNat / 32 % 32 ≠ 31) := by decide

/-- The last tick but one and the last tick of a frame, even and odd. -/
theorem witness_TicksWalkTheFrame :
    { p0 with dot := 340, scanline := 261 }.dot ≤ 340 ∧ { p0 with dot := 340, scanline := 261 }.scanline ≤ 261
      ∧ 261 * 341 + 340 + 1 = 89342 ∧ 261 * 341 + 340 + 0 < 89342 ∧ { p0 with odd := true }.odd = true := by decide

/-- A position for each clause, at the ends of the range; no position is in two. -/
theorem witness_TickEvents :
    [(241, 1), (261, 1), (0, 257), (239, 257), (261, 257), (261, 280), (261, 304), (240, 256), (0, 0)].map
      (fun e : Nat × Nat =>
        [decide (e.1 = 241 ∧ e.2 = 1), decide (e.1 = 261 ∧ e.2 = 1), decide ((e.1 < 240 ∨ e.1 = 261) ∧ e.2 = 257),
          decide (e.1 = 261 ∧ 280 ≤ e.2 ∧ e.2 ≤ 304), decide (e.1 < 240 ∧ e.2 = 256)])
      = [[true, false, false, false, false], [false, true, false, false, false], [false, false, true, false, false],
          [false, false, true, false, false], [false, false, true, false, false], [false, false, false, true, false],
          [false, false, false, true, false], [false, false, false, false, false], [false, false, false, false, false]] := by
  decide

/-- A PPU with a solid first tile and objects 0 and 1 in the buffer, both on line 1 and in columns 8 to 15, objects shown. -/
def objectPpu : Ppu :=
  { p0 with mask := 0x10#8, oam := [(3, 0x08#8), (7, 0x08#8)], sec := [0, 1] }

/-- A pattern table whose tile 0 is solid in plane 0. -/
def solidTile : Cartridge := { Cartridge.blank with chr := (List.range 8).map fun k => (k, 0xFF#8) }

/-- Column 8 shows object 0, column 16 shows none, and with the mask clear none is shown. -/
theorem witness_ObjectPixels :
    (∀ m ∈ objectPpu.sec, coversLine objectPpu 1 m = true)
      ∧ (objectPpu.mask.getLsbD 4 = true ∧ 8 ≤ 8) ∧ objectPpu.sec = [] ++ 0 :: [1]
      ∧ objectShows objectPpu solidTile 1 8 0 = 1 ∧ (∀ m ∈ objectPpu.sec, objectShows objectPpu solidTile 1 16 m = 0)
      ∧ (∀ m ∈ objectPpu.sec, coversLine objectPpu 8 m = true) ∧ p0.mask.getLsbD 4 = false := by decide

/-- The background shown in column 8, clipped in column 7, and hidden with the mask clear. -/
theorem witness_BackgroundPixel :
    planes { p0 with mask := 0x08#8 } solidTile 0 7 ≠ 0 ∧ { p0 with mask := 0x08#8 }.mask.getLsbD 3 = true ∧ 8 ≤ 8
      ∧ { p0 with mask := 0x08#8 }.mask.getLsbD 1 = false ∧ ¬ 8 ≤ 7 ∧ p0.mask.getLsbD 3 = false := by decide

/-- A PPU at dot 256 of a line, the lines before it rendered. -/
def atLine (n : Nat) : Ppu :=
  { p0 with dot := 256, scanline := n, mask := 0x1E#8,
            fb := (List.range n).map fun y => (y, List.replicate 256 ⟨0#6, 0#2⟩) }

theorem linesWf_atLine {n : Nat} (h : n < 240) : linesWf (atLine n).linesRendered (atLine n).fb = true := by
  have e : (atLine n).linesRendered = n := (if_neg (Nat.not_le.mpr h)).trans (if_neg (Nat.lt_irrefl 256))
  rw [e]
  simp [-List.reduceReplicate, linesWf, atLine, Function.comp_def]

theorem wf_atLine {n : Nat} (h : n < 240) : { State.reset with ppu := atLine n }.wf = true := by
  have hs : decide ((atLine n).scanline ≤ 261) = true := decide_eq_true (show n ≤ 261 by omega)
  have hp : (atLine n).wf = true := by
    unfold Ppu.wf
    rw [linesWf_atLine h, hs]
    rfl
  unfold State.wf
  simp only [hp]
  rfl

/-- The first and the last visible line, rendering enabled. -/
theorem witness_VisibleLineIsRendered :
    ({ State.reset with ppu := atLine 0 }.wf = true ∧ (atLine 0).scanline < 240 ∧ (atLine 0).dot = 256)
      ∧ { State.reset with ppu := atLine 239 }.wf = true ∧ (atLine 239).scanline < 240 ∧ (atLine 239).dot = 256 :=
  ⟨⟨wf_atLine (by decide), Nat.zero_lt_succ _, rfl⟩, wf_atLine (by decide), Nat.lt_succ_self 239, rfl⟩

theorem witness_HiddenPixelsAreTransparent :
    p0.mask.getLsbD 3 = false ∧ p0.mask.getLsbD 4 = false
      ∧ (7 < 8 ∧ { p0 with mask := 0x18#8 }.mask.getLsbD 1 = false ∧ { p0 with mask := 0x18#8 }.mask.getLsbD 2 = false) := by decide

theorem witness_TicksLeaveCpuAndMemoryAlone :
    { c0 with nmiPending := true }.nmiPending = true ∧ p0.ctrl.getLsbD 7 = false := by decide

/-- Between two frames' calls, the CPU in debt, the PPU on the last dot of a frame. -/
def atFrameEnd : State :=
  { State.reset with ppu := { p0 with dot := 340, scanline := 261 }, cpu := { c0 with credit := -10 } }

theorem witness_DispatcherIteration :
    State.reset.running = true ∧ State.reset.turn = .idle ∧ { State.reset with turn := .grant }.turn = .grant
      ∧ { State.reset with turn := .cpu 3 }.turn = .cpu 3 ∧ { State.reset with turn := .cpu 3 }.cpu.credit ≤ 0
      ∧ (tick atFrameEnd).2 = true := by decide

theorem witness_DispatcherIteration_frame : ∃ fb t, runFrame atFrameEnd = .frame fb t := ⟨_, _, rfl⟩

/-- A grant, an instruction step and a PPU turn each answer a next state. -/
theorem witness_CyclesPlusCreditIsTheGrant :
    (∃ t, step State.reset = .next t) ∧ (∃ t, step nopState = .next t)
      ∧ ∃ t, step { State.reset with turn := .cpu 3 } = .next t := 
  ⟨step_of_after (by decide), step_of_after (by decide), step_of_after (by decide)⟩

theorem witness_RunFrameTerminates :
    State.reset.wf = true ∧ State.reset.running = true ∧ State.reset.turn = .idle := by decide

/-- A machine that has just faulted inside a run_frame. -/
def faulted : State := { nopState with fault := some (.invalidOpcode 0x02#8 0xC000#16) }

theorem witness_HardReset : State.reset.betweenFrames = true ∧ State.reset.boot ≠ .noCartridge
    ∧ faulted.betweenFrames = true ∧ faulted.boot ≠ .noCartridge := by decide

theorem witness_SoftReset : { State.reset with boot := .loaded }.betweenFrames = true ∧ { State.reset with boot := .loaded }.boot ≠ .noCartridge
    ∧ faulted.betweenFrames = true ∧ faulted.boot ≠ .noCartridge := by
  decide

/-- Each clause: nothing installed, loaded but not reset, and inside a run_frame. -/
theorem witness_HostCallPreconditions :
    State.reset.fault = none ∧ { State.reset with boot := .noCartridge }.boot = .noCartridge
      ∧ { State.reset with boot := .noCartridge }.turn = .idle ∧ { State.reset with boot := .loaded }.boot = .loaded
      ∧ { State.reset with turn := .grant }.turn ≠ .idle
      ∧ { State.reset with boot := .loaded }.betweenFrames = true ∧ faulted.betweenFrames = true ∧ faulted.boot ≠ .noCartridge := by decide

/-- The containers of V150 to V153: one and two pages, with and without CHR and trainer, another mapper, another size. -/
theorem witness_LoadBuildsTheCartridge :
    (List.replicate 8 0x00#8).length = 8
      ∧ (List.replicate 512 0x00#8).length = (if (0x04#8).getLsbD 2 then 512 else 0)
      ∧ ([] : List Byte).length = (if (0x01#8).getLsbD 2 then 512 else 0)
      ∧ (List.replicate 32768 0x00#8).length = 16384 * (0x02#8).toNat
      ∧ (List.replicate 49152 0x00#8).length = 16384 * (0x03#8).toNat
      ∧ (List.replicate 16384 0x00#8).length = 8192 * (0x02#8).toNat
      ∧ ([] : List Byte).length = 8192 * (0x00#8).toNat
      ∧ (0x01#8).toNat / 16 + 16 * ((0x00#8).toNat / 16) = 0 ∧ (0x11#8).toNat / 16 + 16 * ((0x00#8).toNat / 16) ≠ 0
      ∧ [0x00#8] ≠ [] ∧ [0x4E#8, 0x45#8, 0x53#8].take 4 ≠ [0x4E#8, 0x45#8, 0x53#8, 0x1A#8] := by
  exact ⟨List.length_replicate, List.length_replicate.trans (by decide), by decide, List.length_replicate.trans (by decide),
    List.length_replicate.trans (by decide), List.length_replicate.trans (by decide), by decide, by decide, by decide,
    by decide, by decide⟩

/-- Between frames, a load that gives an error and one that gives a cartridge (with the sizes of V152). -/
theorem witness_LoadBuildsTheCartridge_calls (small : List Byte) (hs : small.length = 16384) :
    State.reset.betweenFrames = true ∧ loadCartridge ⟨[], []⟩ [] = .error .format
      ∧ ∃ c, buildCartridge ⟨[], []⟩ ⟨0, small, none, .vertical, false⟩ = .ok c :=
  ⟨by decide, by decide, by simp [buildCartridge, CartImage.prgSize, CartImage.chrSizeOk, hs]⟩

theorem witness_StepKeepsTheStateWellFormed : nopState.wf = true ∧ ∃ t, step nopState = .next t :=
  ⟨by decide, step_of_after (by decide)⟩

theorem witness_RomIsImmutable :
    (∃ t, step { nopState with cart := { nopState.cart with chrKind := .rom } } = .next t)
      ∧ { nopState with cart := { nopState.cart with chrKind := .rom } }.cart.chrKind = .rom :=
  ⟨step_of_after (by decide), by decide⟩

end Sys2Proof.Tests
end

section
/-! PROOF. The frame of an instruction's registers and flags (O28): a preorder on states, one rule per shared operation, and
one case per kind of instruction (10_state R20 to R30, R23). -/

namespace Sys2Proof.Machine

open Sys2Proof.Claims

/-! ### Flags kept under a mask -/

/-- `q` differs from `p` at most in the bits of `mask`. -/
def FlagsKept (mask p q : Byte) : Prop := q &&& ~~~mask = p &&& ~~~mask

namespace FlagsKept

variable {mask p q r : Byte}

theorem refl : FlagsKept mask p p := Eq.refl _

theorem trans (h : FlagsKept mask p q) (h' : FlagsKept mask q r) : FlagsKept mask p r := Eq.trans h' h

/-- Bit by bit: every bit outside the mask is the old one. -/
theorem of_bits (h : ∀ j, mask.getLsbD j = false → q.getLsbD j = p.getLsbD j) : FlagsKept mask p q := by
  apply byte_ext
  intro j hj
  cases hm : mask.getLsbD j
  · simp [hm, h j hm]
  · simp [hm]

theorem full : FlagsKept 0xFF#8 p q := by simp [FlagsKept]

theorem putBit (h : FlagsKept mask p q) {i : Nat} (hi : i < 8) (hm : mask.getLsbD i = true) (b : Bool) :
    FlagsKept mask p (putBit q i b) := by
  refine h.trans (of_bits fun j hj => ?_)
  have hne : j ≠ i := by
    rintro rfl
    exact Bool.false_ne_true (hj.symm.trans hm)
  rw [getLsbD_putBit _ _ _ _ hi, if_neg hne]

theorem setC (h : FlagsKept mask p q) (hm : mask.getLsbD 0 = true) (b : Bool) : FlagsKept mask p (setC b q) :=
  h.putBit (by decide) hm b

theorem setV (h : FlagsKept mask p q) (hm : mask.getLsbD 6 = true) (b : Bool) : FlagsKept mask p (setV b q) :=
  h.putBit (by decide) hm b

theorem setZN (h : FlagsKept mask p q) (hz : mask.getLsbD 1 = true) (hn : mask.getLsbD 7 = true) (v : Byte) :
    FlagsKept mask p (setZN v q) :=
  (h.putBit (by decide) hz _).putBit (by decide) hn _

end FlagsKept

theorem adcFlags_kept (a m p : Byte) : FlagsKept 0xC3#8 p (adcFlags a m p) :=
  ((FlagsKept.refl.setC rfl _).setV rfl _).setZN rfl rfl _

theorem compare_kept (r m p : Byte) : FlagsKept 0x83#8 p (compare r m p) :=
  (FlagsKept.refl.setC rfl _).setZN rfl rfl _

theorem bitFlags_kept (a m p : Byte) : FlagsKept 0xC2#8 p (bitFlags a m p) :=
  ((FlagsKept.refl.putBit (by decide) rfl _).putBit (by decide) rfl _).setV rfl _

theorem shifted_kept (r : Byte) (c : Bool) (p : Byte) : FlagsKept 0x83#8 p (shifted r c p).2 :=
  (FlagsKept.refl.setC rfl _).setZN rfl rfl _

theorem setZN_kept (r p : Byte) : FlagsKept 0x82#8 p (setZN r p) := FlagsKept.refl.setZN rfl rfl _

/-- A reading instruction changes only the flags of its rule. -/
theorem readEffect_flags {m : Mnemonic} {u : Byte → Cpu → Cpu} (hu : readEffect m = some u) (v : Byte) (c : Cpu) :
    FlagsKept (flagMask m) c.p (u v c).p := by
  cases m <;> cases hu
  case adc | sbc => exact adcFlags_kept _ _ _
  case cmp | cpx | cpy => exact compare_kept _ _ _
  case bit => exact bitFlags_kept _ _ _
  all_goals exact setZN_kept _ _

/-- A read-modify-write function changes only the flags of its rule. -/
theorem modifyEffect_flags {m : Mnemonic} {f : Byte → Byte → Byte × Byte} (hf : modifyEffect m = some f) (p v : Byte) :
    FlagsKept (flagMask m) p (f p v).2 := by
  cases m <;> cases hf
  case inc | dec => exact setZN_kept _ _
  all_goals exact shifted_kept _ _ _

/-- A register instruction changes only the flags of its rule. -/
theorem impliedEffect_flags {m : Mnemonic} {u : Cpu → Cpu} (hu : impliedEffect m = some u) (c : Cpu) :
    FlagsKept (flagMask m) c.p (u c).p := by
  cases m <;> cases hu
  case txs | cli | sei | nop => exact .refl
  case clc | sec | cld | sed | clv => exact FlagsKept.refl.putBit (by decide) rfl _
  all_goals exact setZN_kept _ _

/-! ### The frame of the CPU -/

/-- From `c` to `d`, only what the rule of a mnemonic `m` with operand `o` writes has changed; the cycle accounting is
free (R20 to R29). -/
structure CpuFrame (m : Mnemonic) (o : Operand) (c d : Cpu) : Prop where
  a : writesA m = false → o ≠ .acc → d.a = c.a
  x : writesX m = false → d.x = c.x
  y : writesY m = false → d.y = c.y
  sp : writesSp m = false → d.sp = c.sp
  pc : writesPc m = false → d.pc = c.pc
  pendI : writesPendI m = false → d.pendI = c.pendI
  flags : FlagsKept (flagMask m) c.p d.p
  carryI : d.carryI = c.carryI
  nmiPending : d.nmiPending = c.nmiPending

variable {m : Mnemonic} {o : Operand}

namespace CpuFrame

variable {c d e : Cpu}

theorem refl : CpuFrame m o c c where
  a _ _ := rfl
  x _ := rfl
  y _ := rfl
  sp _ := rfl
  pc _ := rfl
  pendI _ := rfl
  flags := .refl
  carryI := rfl
  nmiPending := rfl

theorem trans (h : CpuFrame m o c d) (h' : CpuFrame m o d e) : CpuFrame m o c e where
  a hm ho := (h'.a hm ho).trans (h.a hm ho)
  x hm := (h'.x hm).trans (h.x hm)
  y hm := (h'.y hm).trans (h.y hm)
  sp hm := (h'.sp hm).trans (h.sp hm)
  pc hm := (h'.pc hm).trans (h.pc hm)
  pendI hm := (h'.pendI hm).trans (h.pendI hm)
  flags := h.flags.trans h'.flags
  carryI := h'.carryI.trans h.carryI
  nmiPending := h'.nmiPending.trans h.nmiPending

theorem setSp (hm : writesSp m = true) (v : Byte) : CpuFrame m o c { c with sp := v } :=
  { refl with sp := fun hn => absurd (hm.symm.trans hn) (by decide) }

theorem setPc (hm : writesPc m = true) (w : Word) : CpuFrame m o c { c with pc := w } :=
  { refl with pc := fun hn => absurd (hm.symm.trans hn) (by decide) }

theorem setP {q : Byte} (hq : FlagsKept (flagMask m) c.p q) : CpuFrame m o c { c with p := q } :=
  { refl with flags := hq }

/-- A and P together: A by the rule of the mnemonic or as the accumulator operand of a shift (R119). -/
theorem setAP (ha : writesA m = true ∨ o = .acc) (v : Byte) {q : Byte} (hq : FlagsKept (flagMask m) c.p q) :
    CpuFrame m o c { c with a := v, p := q } :=
  { refl (o := o) with
    a := fun hn ho => ha.elim (fun hm => absurd (hm.symm.trans hn) (by decide)) (fun he => absurd he ho)
    flags := hq }

/-- P and the pending I together, as PLP writes them (R209). -/
theorem setPPendI (hm : writesPendI m = true) (b : Option Bool) {q : Byte} (hq : FlagsKept (flagMask m) c.p q) :
    CpuFrame m o c { c with p := q, pendI := b } :=
  { refl (o := o) with
    pendI := fun hn => absurd (hm.symm.trans hn) (by decide)
    flags := hq }

/-- The charge of a step is outside the frame (R402). -/
theorem account (k : Int) (n : Nat) : CpuFrame m o c { c with credit := k, cycles := n } := { refl with }

end CpuFrame

theorem readEffect_cpuFrame {u : Byte → Cpu → Cpu} (hu : readEffect m = some u) (v : Byte) (c : Cpu) :
    CpuFrame m o c (u v c) := by
  have frame := readEffect_frame hu v c
  exact
    { a := fun hm _ => by cases m <;> cases hu <;> cases hm <;> rfl
      x := fun hm => by cases m <;> cases hu <;> cases hm <;> rfl
      y := fun hm => by cases m <;> cases hu <;> cases hm <;> rfl
      sp := fun _ => by rw [frame]
      pc := fun _ => by rw [frame]
      pendI := fun _ => by rw [frame]
      flags := readEffect_flags hu v c
      carryI := by rw [frame]
      nmiPending := by rw [frame] }

theorem impliedEffect_cpuFrame {u : Cpu → Cpu} (hu : impliedEffect m = some u) (c : Cpu) :
    CpuFrame m o c (u c) := by
  have frame := impliedEffect_frame hu c
  exact
    { a := fun hm _ => by cases m <;> cases hu <;> cases hm <;> rfl
      x := fun hm => by cases m <;> cases hu <;> cases hm <;> rfl
      y := fun hm => by cases m <;> cases hu <;> cases hm <;> rfl
      sp := fun hm => by cases m <;> cases hu <;> cases hm <;> rfl
      pc := fun _ => by rw [frame]
      pendI := fun hm => by cases m <;> cases hu <;> cases hm <;> rfl
      flags := impliedEffect_flags hu c
      carryI := by rw [frame]
      nmiPending := by rw [frame] }

/-- Every branch may write PC. -/
theorem branchEffect_writesPc {b : Byte → Bool} (hb : branchEffect m = some b) : writesPc m = true := by
  cases m <;> cases hb <;> rfl

/-! ### The frame of the state -/

/-- From `s` to `t`, the CPU has kept its frame and the dispatcher's own fields are as before (R30). -/
structure ExecFrame (m : Mnemonic) (o : Operand) (s t : State) : Prop where
  cpu : CpuFrame m o s.cpu t.cpu
  fault : t.fault = s.fault
  boot : t.boot = s.boot
  acc : t.acc = s.acc
  turn : t.turn = s.turn

namespace ExecFrame

variable {s t r : State}

theorem trans (h : ExecFrame m o s t) (h' : ExecFrame m o t r) : ExecFrame m o s r where
  cpu := h.cpu.trans h'.cpu
  fault := h'.fault.trans h.fault
  boot := h'.boot.trans h.boot
  acc := h'.acc.trans h.acc
  turn := h'.turn.trans h.turn

theorem refl : ExecFrame m o s s := ⟨.refl, rfl, rfl, rfl, rfl⟩

theorem setCpu (h : ExecFrame m o s t) {c : Cpu} (hc : CpuFrame m o t.cpu c) : ExecFrame m o s (t.setCpu c) :=
  h.trans ⟨hc, rfl, rfl, rfl, rfl⟩

theorem charge (h : ExecFrame m o s t) (n : Nat) : ExecFrame m o s (t.charge n) := h.setCpu (.account _ _)

theorem memRead (h : ExecFrame m o s t) (a : Word) : ExecFrame m o s (memRead a t).2 := by
  rw [memRead_state]
  exact h.trans ⟨.refl, rfl, rfl, rfl, rfl⟩

theorem memWrite (h : ExecFrame m o s t) (c : Nat) (a : Word) (v : Byte) : ExecFrame m o s (memWrite c a v t) := by
  obtain ⟨k, hk⟩ := memWrite_state c a v t
  rw [hk]
  exact h.trans ⟨.account _ _, rfl, rfl, rfl, rfl⟩

theorem read16 (h : ExecFrame m o s t) (a : Word) : ExecFrame m o s (read16 a t).2 := (h.memRead _).memRead _

theorem push (h : ExecFrame m o s t) (hm : writesSp m = true) (v : Byte) : ExecFrame m o s (push v t) :=
  (h.memWrite _ _ _).setCpu (.setSp hm _)

theorem pull (h : ExecFrame m o s t) (hm : writesSp m = true) : ExecFrame m o s (pull t).2 :=
  (h.setCpu (.setSp hm _)).memRead _

theorem src (h : ExecFrame m o s t) (d : DataOperand) : ExecFrame m o s (src d t).st := by
  cases d with
  | imm n => exact h
  | mem e => simpa [src_mem] using h.memRead (effAddr e t).addr

end ExecFrame

/-! ### The frame of every instruction -/

variable {s t : State}

theorem readInstr_execFrame {u : Byte → Cpu → Cpu} (hu : readEffect m = some u) (d : DataOperand) (base : Nat) (pen : Bool)
    (h : readInstr u d base pen s = .next t) : ExecFrame m o s t := by
  cases h
  exact ((ExecFrame.refl.src d).setCpu (readEffect_cpuFrame hu _ _)).charge _

theorem storeInstr_execFrame (v : Byte) (e : MemOperand) (base : Nat) (h : storeInstr v e base s = .next t) :
    ExecFrame m o s t := by
  rw [storeInstr_eq] at h
  cases h
  exact (ExecFrame.refl.memWrite _ _ _).charge _

theorem modifyMem_execFrame {f : Byte → Byte → Byte × Byte} (hf : modifyEffect m = some f) (e : MemOperand) (base : Nat)
    (h : modifyMem f e base s = .next t) : ExecFrame m o s t := by
  rw [modifyMem_eq] at h
  cases h
  refine (((ExecFrame.refl.memRead _).memWrite _ _ _).setCpu (.setP ?_)).charge _
  rw [memWrite_p, memRead_cpu]
  exact modifyEffect_flags hf _ _

theorem modifyAcc_execFrame {f : Byte → Byte → Byte × Byte} (hf : modifyEffect m = some f) (base : Nat)
    (h : modifyAcc f base s = .next t) : ExecFrame m .acc s t := by
  cases h
  exact (ExecFrame.refl.setCpu (.setAP (.inr rfl) _ (modifyEffect_flags hf _ _))).charge _

theorem impliedInstr_execFrame {u : Cpu → Cpu} (hu : impliedEffect m = some u) (base : Nat)
    (h : impliedInstr u base s = .next t) : ExecFrame m o s t := by
  cases h
  exact (ExecFrame.refl.setCpu (impliedEffect_cpuFrame hu _)).charge _

theorem branchInstr_execFrame (hm : writesPc m = true) (taken : Bool) (n : Byte) (base : Nat)
    (h : branchInstr taken n base s = .next t) : ExecFrame m o s t := by
  cases taken with
  | true =>
    cases h
    exact (ExecFrame.refl.setCpu (.setPc hm _)).charge _
  | false =>
    cases h
    exact ExecFrame.refl.charge _

/-- The break entry of BRK: SP, PC and I, nothing else (R198). -/
theorem enterInterrupt_execFrame (status : Byte) (s : State) :
    ExecFrame .brk o s (enterInterrupt status breakVector s) := by
  rw [enterInterrupt_eq status (by decide) (by decide)]
  exact ⟨{ CpuFrame.refl (c := s.cpu) with
    sp := fun h => nomatch h
    pc := fun h => nomatch h
    flags := FlagsKept.refl.putBit (by decide) rfl true }, rfl, rfl, rfl, rfl⟩

/-- The return of RTI: SP, PC and P, nothing else (R197). -/
theorem returnFromInterrupt_execFrame (s : State) : ExecFrame .rti o s (returnFromInterrupt s) := by
  rw [returnFromInterrupt_eq]
  exact ⟨{ CpuFrame.refl (c := s.cpu) with
    sp := fun h => nomatch h
    pc := fun h => nomatch h
    flags := .full }, rfl, rfl, rfl, rfl⟩

theorem execJmpAbs_execFrame {w : Word} (h : execJmpAbs w s = .next t) : ExecFrame .jmp o s t := by
  obtain rfl := Host.Outcome.next.inj h
  exact (ExecFrame.refl.setCpu (.setPc rfl w)).charge _

theorem execJmpInd_execFrame {w : Word} (h : execJmpInd w s = .next t) : ExecFrame .jmp o s t := by
  obtain rfl := Host.Outcome.next.inj h
  exact (((ExecFrame.refl.memRead _).memRead _).setCpu (.setPc rfl _)).charge _

theorem execJsr_execFrame {w : Word} (h : execJsr w s = .next t) : ExecFrame .jsr o s t := by
  obtain rfl := Host.Outcome.next.inj h
  exact (((ExecFrame.refl.push rfl _).push rfl _).setCpu (.setPc rfl w)).charge _

theorem execRts_execFrame (h : execRts s = .next t) : ExecFrame .rts o s t := by
  obtain rfl := Host.Outcome.next.inj h
  exact (((ExecFrame.refl.pull rfl).pull rfl).setCpu (.setPc rfl _)).charge _

theorem execRti_execFrame (h : execRti s = .next t) : ExecFrame .rti o s t := by
  obtain rfl := Host.Outcome.next.inj h
  exact (returnFromInterrupt_execFrame s).charge _

theorem execBrk_execFrame (h : execBrk s = .next t) : ExecFrame .brk o s t := by
  obtain rfl := Host.Outcome.next.inj h
  exact ((ExecFrame.refl.setCpu (.setPc rfl _)).trans (enterInterrupt_execFrame _ _)).charge _

theorem execPha_execFrame (h : execPha s = .next t) : ExecFrame .pha o s t := by
  obtain rfl := Host.Outcome.next.inj h
  exact (ExecFrame.refl.push rfl _).charge _

theorem execPhp_execFrame (h : execPhp s = .next t) : ExecFrame .php o s t := by
  obtain rfl := Host.Outcome.next.inj h
  exact (ExecFrame.refl.push rfl _).charge _

theorem execPla_execFrame (h : execPla s = .next t) : ExecFrame .pla o s t := by
  obtain rfl := Host.Outcome.next.inj h
  refine ((ExecFrame.refl.pull rfl).setCpu ?_).charge 4
  exact .setAP (.inl rfl) _ (setZN_kept _ _)

theorem execPlp_execFrame (h : execPlp s = .next t) : ExecFrame .plp o s t := by
  obtain rfl := Host.Outcome.next.inj h
  refine ((ExecFrame.refl.pull rfl).setCpu ?_).charge 4
  exact .setPPendI rfl _ .full

/-- Every instruction keeps its frame. -/
theorem exec_execFrame {i : Instr} (h : exec i s = .next t) : ExecFrame i.mnemonic i.operand s t := by
  cases instr_kind i with
  | read d u hd hu => exact readInstr_execFrame hu d _ _ (exec_read hd hu s ▸ h)
  | store e v hd hv => exact storeInstr_execFrame _ e _ (exec_store hd hv s ▸ h)
  | modify e f hd hf => exact modifyMem_execFrame hf e _ (exec_modify hd hf s ▸ h)
  | accumulator f hd hf =>
    rw [hd]
    exact modifyAcc_execFrame hf _ (exec_accumulator hd hf s ▸ h)
  | branch n b hd hb => exact branchInstr_execFrame (branchEffect_writesPc hb) _ n _ (exec_branch hd hb s ▸ h)
  | implied u hd hu => exact impliedInstr_execFrame hu _ (exec_implied hd hu s ▸ h)
  | jmpAbs w => exact execJmpAbs_execFrame h
  | jmpInd w => exact execJmpInd_execFrame h
  | jsr w => exact execJsr_execFrame h
  | rts => exact execRts_execFrame h
  | rti => exact execRti_execFrame h
  | brk => exact execBrk_execFrame h
  | pha => exact execPha_execFrame h
  | php => exact execPhp_execFrame h
  | pla => exact execPla_execFrame h
  | plp => exact execPlp_execFrame h

end Sys2Proof.Machine

open Sys2Proof Sys2Proof.Machine

/-- Settles O28: every kind of instruction is composed of operations that keep the frame. -/
theorem instructionsChangeOnlyTheirRegisters : Obligations.InstructionsChangeOnlyTheirRegisters := by
  unfold Obligations.InstructionsChangeOnlyTheirRegisters
  intro i s t h
  obtain ⟨cpu, fault, boot, acc, turn⟩ := exec_execFrame h
  exact ⟨cpu.a, cpu.x, cpu.y, cpu.sp, cpu.pc, cpu.pendI, cpu.flags, cpu.carryI, cpu.nmiPending, fault, boot, acc, turn⟩

end

section
/-! PROOF. What the CPU's side of a step is made of, said once: bus reads, bus writes, changes of the CPU's registers and the
fault mark (48_dispatcher R402). What each of these keeps, every CPU step keeps. -/

namespace Sys2Proof.Machine

/-- `t` is reached from `s` by accesses of the bus, changes of the CPU's registers and settings of the fault mark. -/
inductive CpuPath (s : State) : State → Prop where
  | refl : CpuPath s s
  | memRead {t : State} (h : CpuPath s t) (a : Word) : CpuPath s (memRead a t).2
  | memWrite {t : State} (h : CpuPath s t) (c : Nat) (a : Word) (v : Byte) : CpuPath s (memWrite c a v t)
  | setCpu {t : State} (h : CpuPath s t) (c : Cpu) : CpuPath s (t.setCpu c)
  | setFault {t : State} (h : CpuPath s t) (f : Option Fault) : CpuPath s (t.setFault f)

variable {s t u : State}

/-! ### The shared operations are paths -/

namespace CpuPath

theorem trans (h : CpuPath s t) (h' : CpuPath t u) : CpuPath s u := by
  induction h' with
  | refl => exact h
  | memRead _ a ih => exact ih.memRead a
  | memWrite _ c a v ih => exact ih.memWrite c a v
  | setCpu _ c ih => exact ih.setCpu c
  | setFault _ f ih => exact ih.setFault f

theorem charge (h : CpuPath s t) (n : Nat) : CpuPath s (t.charge n) := h.setCpu _

theorem read16 (h : CpuPath s t) (a : Word) : CpuPath s (read16 a t).2 := (h.memRead _).memRead _

theorem push (h : CpuPath s t) (v : Byte) : CpuPath s (push v t) := (h.memWrite _ _ _).setCpu _

theorem pull (h : CpuPath s t) : CpuPath s (pull t).2 := (h.setCpu _).memRead _

theorem src (h : CpuPath s t) (d : DataOperand) : CpuPath s (src d t).st := by
  cases d with
  | imm n => exact h
  | mem m =>
    rw [src_mem]
    exact h.memRead _

theorem enterInterrupt (h : CpuPath s t) (status : Byte) (vector : Word) :
    CpuPath s (enterInterrupt status vector t) :=
  (((((h.push _).push _).push _).setCpu _).read16 _).setCpu _

theorem returnFromInterrupt (h : CpuPath s t) : CpuPath s (returnFromInterrupt t) :=
  (((h.pull.setCpu _).pull).pull).setCpu _

theorem fetchByte (h : CpuPath s t) : CpuPath s (fetchByte t).2 := (h.memRead _).setCpu _

end CpuPath

/-! ### Every instruction is a path -/

theorem storeInstr_cpuPath {v : Byte} {m : MemOperand} {base : Nat} (h : storeInstr v m base s = .next t) :
    CpuPath s t := by
  rw [storeInstr_eq] at h
  cases h
  exact (CpuPath.refl.memWrite _ _ _).charge _

theorem modifyMem_cpuPath {f : Byte → Byte → Byte × Byte} {m : MemOperand} {base : Nat}
    (h : modifyMem f m base s = .next t) : CpuPath s t := by
  rw [modifyMem_eq] at h
  cases h
  exact (((CpuPath.refl.memRead _).memWrite _ _ _).setCpu _).charge _

theorem branchInstr_cpuPath {taken : Bool} {n : Byte} {base : Nat} (h : branchInstr taken n base s = .next t) :
    CpuPath s t := by
  cases taken <;> cases h
  case false => exact CpuPath.refl.charge _
  case true => exact (CpuPath.refl.setCpu _).charge _

/-- What an instruction does is a path: one case per kind of instruction. -/
theorem exec_cpuPath {i : Instr} (h : exec i s = .next t) : CpuPath s t := by
  cases instr_kind i with
  | read d u hd hu =>
    rw [exec_read hd hu] at h
    cases h
    exact ((CpuPath.refl.src d).setCpu _).charge _
  | store m v hd hv => exact storeInstr_cpuPath (exec_store hd hv s ▸ h)
  | modify m f hd hf => exact modifyMem_cpuPath (exec_modify hd hf s ▸ h)
  | accumulator f hd hf =>
    rw [exec_accumulator hd hf] at h
    cases h
    exact (CpuPath.refl.setCpu _).charge _
  | branch n b hd hb => exact branchInstr_cpuPath (exec_branch hd hb s ▸ h)
  | implied u hd hu =>
    rw [exec_implied hd hu] at h
    cases h
    exact (CpuPath.refl.setCpu _).charge _
  | jmpAbs w =>
    obtain rfl := Host.Outcome.next.inj h
    exact (CpuPath.refl.setCpu _).charge _
  | jmpInd w =>
    obtain rfl := Host.Outcome.next.inj h
    exact (((CpuPath.refl.memRead _).memRead _).setCpu _).charge _
  | jsr w =>
    obtain rfl := Host.Outcome.next.inj h
    exact (((CpuPath.refl.push _).push _).setCpu _).charge _
  | rts =>
    obtain rfl := Host.Outcome.next.inj h
    exact ((CpuPath.refl.pull.pull).setCpu _).charge _
  | rti =>
    obtain rfl := Host.Outcome.next.inj h
    exact CpuPath.refl.returnFromInterrupt.charge _
  | brk =>
    obtain rfl := Host.Outcome.next.inj h
    exact ((CpuPath.refl.setCpu _).enterInterrupt _ _).charge _
  | pha | php =>
    obtain rfl := Host.Outcome.next.inj h
    exact (CpuPath.refl.push _).charge _
  | pla | plp =>
    obtain rfl := Host.Outcome.next.inj h
    exact (CpuPath.refl.pull.setCpu _).charge _

/-! ### Every CPU step is a path -/

theorem fetchOperand_cpuPath {sh : Shape} {i : Instr} (h : fetchOperand sh s = some (i, t)) : CpuPath s t := by
  cases sh <;> cases h
  case bare => exact .refl
  case byte => exact CpuPath.refl.fetchByte
  case word => exact CpuPath.refl.fetchByte.fetchByte

theorem fetchInstr_cpuPath {i : Instr} (h : fetchInstr s = some (i, t)) : CpuPath s t :=
  (CpuPath.refl.fetchByte.setCpu _).trans (fetchOperand_cpuPath h)

theorem nmiEntry_cpuPath (s : State) : CpuPath s (nmiEntry s) :=
  ((CpuPath.refl.setCpu _).enterInterrupt _ _).charge _

theorem invalidOpcode_cpuPath (s : State) : CpuPath s (invalidOpcode s) := (CpuPath.refl.memRead _).setFault _

theorem instruction_cpuPath {i : Instr} (hf : fetchInstr s = some (i, t)) (he : exec i t = .next u) :
    CpuPath s (complete i u) :=
  ((fetchInstr_cpuPath hf).trans (exec_cpuPath he)).setCpu _

/-- A path leaves the dispatcher's accumulator and stage alone. -/
theorem CpuPath.dispatcher (h : CpuPath s t) : t.acc = s.acc ∧ t.turn = s.turn := by
  induction h with
  | refl => exact ⟨rfl, rfl⟩
  | memRead _ a ih => rwa [memRead_acc, memRead_turn]
  | @memWrite t _ c a v ih =>
    obtain ⟨k, hk⟩ := memWrite_state c a v t
    rw [hk]
    exact ih
  | setCpu _ _ ih => exact ih
  | setFault _ _ ih => exact ih

end Sys2Proof.Machine
end

section
/-! PROOF. What is fixed at load stays (O60): no write of the bus reaches it (10_state R46, 47_cartridge R373, R374). -/

namespace Sys2Proof.Machine

/-- From `c` to `d`, what is fixed at load is the same: PRG, the sizes and kinds, the mirroring, CHR when it is ROM. -/
structure RomKept (c d : Cartridge) : Prop where
  prg : d.prg = c.prg
  prgSize : d.prgSize = c.prgSize
  mapper : d.mapper = c.mapper
  mirroring : d.mirroring = c.mirroring
  chrKind : d.chrKind = c.chrKind
  hasSaveRam : d.hasSaveRam = c.hasSaveRam
  chr : c.chrKind = .rom → d.chr = c.chr

namespace RomKept

variable {c d e : Cartridge}

theorem refl : RomKept c c := ⟨rfl, rfl, rfl, rfl, rfl, rfl, fun _ => rfl⟩

theorem trans (h : RomKept c d) (h' : RomKept d e) : RomKept c e where
  prg := h'.prg.trans h.prg
  prgSize := h'.prgSize.trans h.prgSize
  mapper := h'.mapper.trans h.mapper
  mirroring := h'.mirroring.trans h.mirroring
  chrKind := h'.chrKind.trans h.chrKind
  hasSaveRam := h'.hasSaveRam.trans h.hasSaveRam
  chr hc := (h'.chr (h.chrKind.trans hc)).trans (h.chr hc)

end RomKept

/-- CHR-ROM ignores a write (R374). -/
theorem writeChr_of_rom {c : Cartridge} (h : c.chrKind = .rom) (a : Nat) (v : Byte) : c.writeChr a v = c := by
  unfold Cartridge.writeChr
  rw [h]

/-- A PPU-space write leaves CHR-ROM alone: CHR is written below $2000 only (R76). -/
theorem ppuWrite_chr_of_rom {c : Cartridge} (h : c.chrKind = .rom) (p : Ppu) (a : PpuAddr) (v : Byte) :
    (ppuWrite p c a v).2.chr = c.chr := by
  unfold ppuWrite
  split
  · rw [writeChr_of_rom h]
  · split
    · unfold writeNametable
      split <;> rfl
    · rfl

/-- A port write leaves CHR-ROM alone: the cartridge is behind the data port only (R308). -/
theorem portWrite_chr_of_rom {c : Cartridge} (h : c.chrKind = .rom) (r : Port) (d : Byte) (p : Ppu) :
    (portWrite r d p c).2.chr = c.chr := by
  cases r with
  | data => exact ppuWrite_chr_of_rom h _ _ _
  | scroll | addr => simp only [portWrite]; split <;> rfl
  | _ => rfl

theorem portWrite_romKept (r : Port) (d : Byte) (p : Ppu) (c : Cartridge) : RomKept c (portWrite r d p c).2 := by
  have hchr (h : c.chrKind = .rom) : (portWrite r d p c).2.chr = c.chr := portWrite_chr_of_rom h r d p
  rw [portWrite_cart] at hchr ⊢
  exact { RomKept.refl (c := c) with chr := hchr }

theorem writeSram_romKept (c : Cartridge) (off : Nat) (v : Byte) : RomKept c (c.writeSram off v) := by
  unfold Cartridge.writeSram
  split
  · exact ⟨rfl, rfl, rfl, rfl, rfl, rfl, fun _ => rfl⟩
  · exact .refl

/-- The copy of an OAM DMA reads the cartridge and writes none of it (R72). -/
theorem dmaCopy_cart (d : Byte) (n : Nat) (s : State) : (dmaCopy d n s).cart = s.cart := by
  rw [dmaCopy_state]
  rfl

theorem memWrite_romKept (c : Nat) (a : Word) (v : Byte) (s : State) : RomKept s.cart (memWrite c a v s).cart := by
  unfold memWrite
  cases regionOf a with
  | port r => exact portWrite_romKept r v s.ppu s.cart
  | saveRam off => exact writeSram_romKept s.cart off v
  | oamDma =>
    show RomKept s.cart (dmaCopy v 256 s).cart
    rw [dmaCopy_cart]
    exact .refl
  | _ => exact .refl

theorem CpuPath.romKept {s t : State} (h : CpuPath s t) : RomKept s.cart t.cart := by
  induction h with
  | refl => exact .refl
  | memRead _ a ih => rwa [memRead_cart]
  | memWrite _ c a v ih => exact ih.trans (memWrite_romKept c a v _)
  | setCpu _ _ ih => exact ih
  | setFault _ _ ih => exact ih

theorem ppuTurn_cart (dots : Nat) (s : State) : (ppuTurn dots s).cart = s.cart := by
  show (ppuStep dots s).1.cart = s.cart
  rw [ppuStep_frame]

/-- Every step keeps what is fixed at load. -/
theorem step_romKept {s t : State} (h : step s = .next t) : RomKept s.cart t.cart := by
  cases (step_cases h).2 with
  | grant _ => exact .refl
  | ppu dots _ _ =>
    rw [ppuTurn_cart]
    exact .refl
  | nmi => exact (nmiEntry_cpuPath s).romKept
  | invalid => exact (invalidOpcode_cpuPath s).romKept
  | instr _ _ _ _ _ _ _ hf he => exact (instruction_cpuPath hf he).romKept

end Sys2Proof.Machine

open Sys2Proof Sys2Proof.Machine

/-- Settles O60: every stage of a step keeps what is fixed at load. -/
theorem romIsImmutable : Obligations.RomIsImmutable := by
  unfold Obligations.RomIsImmutable
  intro s t h
  obtain ⟨prg, prgSize, mapper, mirroring, chrKind, hasSaveRam, chr⟩ := step_romKept h
  exact ⟨prg, prgSize, mapper, mirroring, chrKind, hasSaveRam, chr⟩

end

section
/-! PROOF. Every step keeps the state well formed (O59), and the state after reset is (O58): the well-formed state taken
apart, then each part through the five ways a step answers (10_state R24, R32, R41, R44, R46, 46_ppu_frame R349). -/

namespace Sys2Proof.Machine

open Sys2Proof.Claims

/-! ### The parts of a well-formed state -/

/-- P as it is kept between writes: bit 5 reads 1, bit 4 reads 0 (R24). -/
def ReservedBits (p : Byte) : Prop := p.getLsbD 5 = true ∧ p.getLsbD 4 = false

/-- The object buffer holds at most eight OAM numbers (R41). -/
def ObjectBufferWf (sec : List Nat) : Prop := sec.length ≤ 8 ∧ ∀ n ∈ sec, n < 64

theorem Cpu.wf_iff {c : Cpu} : c.wf = true ↔ ReservedBits c.p ∧ c.carryI = none := by
  simp [Cpu.wf, ReservedBits]

theorem Ppu.wf_iff {p : Ppu} : p.wf = true ↔
    FrameInv p ∧ ObjectBufferWf p.sec ∧ p.oam.wf 256 = true ∧ palWf p.pal = true ∧ p.ciram.wf 2048 = true := by
  simp only [Ppu.wf, Bool.and_eq_true, Bool.or_eq_true, decide_eq_true_eq, List.all_eq_true, List.isEmpty_iff]
  constructor
  · rintro ⟨⟨⟨⟨⟨⟨⟨⟨dot, scanline⟩, len⟩, nums⟩, oam⟩, pal⟩, ciram⟩, lines⟩, whole⟩
    exact ⟨⟨dot, scanline, lines, whole⟩, ⟨len, nums⟩, oam, pal, ciram⟩
  · rintro ⟨⟨dot, scanline, lines, whole⟩, ⟨len, nums⟩, oam, pal, ciram⟩
    exact ⟨⟨⟨⟨⟨⟨⟨⟨dot, scanline⟩, len⟩, nums⟩, oam⟩, pal⟩, ciram⟩, lines⟩, whole⟩

/-- A well-formed state by its parts: the CPU, the storage arrays, the PPU's position and frame buffers, the object
buffer, the dispatcher. -/
theorem State.wf_iff {s : State} : s.wf = true ↔
    s.cpu.wf = true ∧ StorageWf s ∧ FrameInv s.ppu ∧ ObjectBufferWf s.ppu.sec ∧ s.dispatcherWf = true := by
  simp only [State.wf, Bool.and_eq_true, Ppu.wf_iff]
  constructor
  · rintro ⟨⟨⟨⟨cpu, ram⟩, frame, sec, oam, pal, ciram⟩, cart⟩, disp⟩
    exact ⟨cpu, ⟨ram, oam, pal, ciram, cart⟩, frame, sec, disp⟩
  · rintro ⟨cpu, ⟨ram, oam, pal, ciram, cart⟩, frame, sec, disp⟩
    exact ⟨⟨⟨⟨cpu, ram⟩, frame, sec, oam, pal, ciram⟩, cart⟩, disp⟩

/-- Inside an iteration the dispatcher's accumulator is zeroed and the credit is free (R401). -/
theorem dispatcherWf_of_cpu {s : State} {dots : Nat} (h : s.turn = .cpu dots) :
    s.dispatcherWf = true ↔ s.acc = 0 := by
  simp [State.dispatcherWf, h]

/-- Between iterations the CPU has no credit left (R402). -/
theorem dispatcherWf_of_spent {s : State} (hacc : s.acc = 0) (hc : s.cpu.credit ≤ 0) : s.dispatcherWf = true := by
  unfold State.dispatcherWf
  cases s.turn <;> simp [hacc, hc]

/-! ### The reserved bits of P -/

theorem FlagsKept.getLsbD {mask p q : Byte} (h : FlagsKept mask p q) {j : Nat} (hj : j < 8)
    (hm : mask.getLsbD j = false) : q.getLsbD j = p.getLsbD j := by
  have hb : (q &&& ~~~mask).getLsbD j = (p &&& ~~~mask).getLsbD j := congrArg (BitVec.getLsbD · j) h
  simpa only [BitVec.getLsbD_and, BitVec.getLsbD_not, hj, hm, decide_true, Bool.not_false, Bool.and_true] using hb

theorem ReservedBits.of_kept {mask p q : Byte} (h : FlagsKept mask p q) (h5 : mask.getLsbD 5 = false)
    (h4 : mask.getLsbD 4 = false) (hp : ReservedBits p) : ReservedBits q :=
  ⟨(h.getLsbD (by decide) h5).trans hp.1, (h.getLsbD (by decide) h4).trans hp.2⟩

theorem reservedBits_putI {p : Byte} (h : ReservedBits p) (b : Bool) : ReservedBits (putBit p 2 b) :=
  h.of_kept (mask := 0x04#8) (FlagsKept.refl.putBit (by decide) rfl b) rfl rfl

/-- A full byte written to P sets the reserved bits whatever it holds (R24). -/
theorem reservedBits_storedP (b : Byte) : ReservedBits (storedP b) := by
  simp [ReservedBits, storedP]

theorem flagMask_avoids_reserved (m : Mnemonic) :
    m = .rti ∨ m = .plp ∨ (flagMask m).getLsbD 5 = false ∧ (flagMask m).getLsbD 4 = false := by
  cases m <;> decide

/-- No instruction disturbs the reserved bits: RTI and PLP write P whole and force them, the others write other bits. -/
theorem exec_reservedBits {i : Instr} {s t : State} (h : exec i s = .next t) (hp : ReservedBits s.cpu.p) :
    ReservedBits t.cpu.p := by
  obtain hm | hm | ⟨h5, h4⟩ := flagMask_avoids_reserved i.mnemonic
  · cases i <;> cases hm
    obtain rfl := Host.Outcome.next.inj h
    rw [charge_cpu, returnFromInterrupt_eq]
    exact reservedBits_storedP _
  · cases i <;> cases hm
    obtain rfl := Host.Outcome.next.inj h
    exact reservedBits_putI (reservedBits_storedP _) _
  · exact hp.of_kept (exec_execFrame h).cpu.flags h5 h4

/-! ### The CPU after a CPU step -/

/-- Completing an instruction empties the carried slot (R205). -/
theorem completeSlot_carryI (i : Instr) (c : Cpu) : (c.completeSlot i).carryI = none := by
  unfold Cpu.completeSlot
  split
  · rfl
  · assumption

theorem completeSlot_reservedBits (i : Instr) {c : Cpu} (h : ReservedBits c.p) : ReservedBits (c.completeSlot i).p := by
  unfold Cpu.completeSlot
  split
  · show ReservedBits (if supersedesI i then c.p else putBit c.p 2 _)
    split
    · exact h
    · exact reservedBits_putI h _
  · exact h

theorem instruction_cpuWf {i : Instr} {s t u : State} (hf : fetchInstr s = some (i, t)) (he : exec i t = .next u)
    (h : s.cpu.wf = true) : (complete i u).cpu.wf = true := by
  have fetched : t.cpu.p = s.cpu.p := by rw [fetchInstr_frame hf]
  have hp : ReservedBits t.cpu.p := fetched ▸ (Cpu.wf_iff.mp h).1
  exact Cpu.wf_iff.mpr ⟨completeSlot_reservedBits i (exec_reservedBits he hp), completeSlot_carryI i _⟩

theorem nmiEntry_cpuWf {s : State} (h : s.cpu.wf = true) : (nmiEntry s).cpu.wf = true := by
  obtain ⟨hp, hcarry⟩ := Cpu.wf_iff.mp h
  refine Cpu.wf_iff.mpr ?_
  unfold nmiEntry
  simp only
  rw [charge_cpu, enterInterrupt_eq _ (by decide) (by decide)]
  refine ⟨reservedBits_putI ?_ true, hcarry⟩
  show ReservedBits (match s.cpu.pendI with
    | some v => putBit s.cpu.p 2 v
    | none => s.cpu.p)
  split
  · exact reservedBits_putI hp _
  · exact hp

theorem invalidOpcode_cpu (s : State) : (invalidOpcode s).cpu = s.cpu := memRead_cpu s.cpu.pc s

/-! ### What the CPU leaves to the PPU -/

/-- From `p` to `q`, what the PPU's own ticks move is the same: the position, the object buffer, the two frame buffers. -/
structure DisplayKept (p q : Ppu) : Prop where
  dot : q.dot = p.dot
  scanline : q.scanline = p.scanline
  sec : q.sec = p.sec
  fb : q.fb = p.fb
  frame : q.frame = p.frame

namespace DisplayKept

variable {p q r : Ppu}

theorem refl : DisplayKept p p := ⟨rfl, rfl, rfl, rfl, rfl⟩

theorem trans (h : DisplayKept p q) (h' : DisplayKept q r) : DisplayKept p r where
  dot := h'.dot.trans h.dot
  scanline := h'.scanline.trans h.scanline
  sec := h'.sec.trans h.sec
  fb := h'.fb.trans h.fb
  frame := h'.frame.trans h.frame

theorem frameInv (h : DisplayKept p q) (hp : FrameInv p) : FrameInv q where
  dot := h.dot ▸ hp.dot
  scanline := h.scanline ▸ hp.scanline
  lines := by
    have := hp.lines
    unfold Ppu.linesRendered at this ⊢
    rwa [h.dot, h.scanline, h.fb]
  whole := h.frame ▸ hp.whole

end DisplayKept

theorem memRead_displayKept (a : Word) (s : State) : DisplayKept s.ppu (memRead a s).2.ppu := by
  obtain e | e | ⟨b, e⟩ := memRead_ppu a s
  all_goals
    rw [e]
    exact ⟨rfl, rfl, rfl, rfl, rfl⟩

theorem ppuWrite_displayKept (p : Ppu) (c : Cartridge) (a : PpuAddr) (v : Byte) :
    DisplayKept p (ppuWrite p c a v).1 := by
  unfold ppuWrite
  split
  · exact .refl
  · split
    · unfold writeNametable
      split <;> exact ⟨rfl, rfl, rfl, rfl, rfl⟩
    · exact ⟨rfl, rfl, rfl, rfl, rfl⟩

theorem portWrite_displayKept (r : Port) (d : Byte) (p : Ppu) (c : Cartridge) :
    DisplayKept p (portWrite r d p c).1 := by
  cases r with
  | data => exact (ppuWrite_displayKept p c p.vramAddr d).trans ⟨rfl, rfl, rfl, rfl, rfl⟩
  | scroll | addr => simp only [portWrite]; split <;> exact ⟨rfl, rfl, rfl, rfl, rfl⟩
  | _ => exact ⟨rfl, rfl, rfl, rfl, rfl⟩

theorem dmaCopy_displayKept (d : Byte) (n : Nat) (s : State) : DisplayKept s.ppu (dmaCopy d n s).ppu := by
  induction n with
  | zero => exact .refl
  | succ n ih => exact (ih.trans (memRead_displayKept _ _)).trans ⟨rfl, rfl, rfl, rfl, rfl⟩

theorem memWrite_displayKept (c : Nat) (a : Word) (v : Byte) (s : State) :
    DisplayKept s.ppu (memWrite c a v s).ppu := by
  unfold memWrite
  cases regionOf a with
  | port r => exact portWrite_displayKept r v s.ppu s.cart
  | oamDma => exact dmaCopy_displayKept v 256 s
  | _ => exact .refl

namespace CpuPath

variable {s t : State}

theorem displayKept (h : CpuPath s t) : DisplayKept s.ppu t.ppu := by
  induction h with
  | refl => exact .refl
  | memRead _ a ih => exact ih.trans (memRead_displayKept a _)
  | memWrite _ c a v ih => exact ih.trans (memWrite_displayKept c a v _)
  | setCpu _ _ ih => exact ih
  | setFault _ _ ih => exact ih

theorem storageWf (h : CpuPath s t) (hs : StorageWf s) : StorageWf t := by
  induction h with
  | refl => exact hs
  | memRead _ a ih => exact memRead_storageWf ih a
  | memWrite _ c a v ih => exact memWrite_storageWf ih c a v
  | setCpu _ _ ih => exact ⟨ih.ram, ih.oam, ih.pal, ih.ciram, ih.cart⟩
  | setFault _ _ ih => exact ⟨ih.ram, ih.oam, ih.pal, ih.ciram, ih.cart⟩

/-- A path inside an iteration keeps the state well formed if it leaves the CPU so. -/
theorem wf (h : CpuPath s t) {dots : Nat} (hd : s.turn = .cpu dots) (hs : s.wf = true) (hc : t.cpu.wf = true) :
    t.wf = true := by
  obtain ⟨-, storage, frame, sec, disp⟩ := State.wf_iff.mp hs
  obtain ⟨hacc, hturn⟩ := h.dispatcher
  refine State.wf_iff.mpr ⟨hc, h.storageWf storage, h.displayKept.frameInv frame, h.displayKept.sec ▸ sec, ?_⟩
  rw [dispatcherWf_of_cpu (hturn.trans hd), hacc]
  exact (dispatcherWf_of_cpu hd).mp disp

end CpuPath

/-! ### The ticks of the PPU -/

/-- The evaluation of a line collects at most eight of the objects it looks at (R340). -/
theorem evaluateLoop_bufferWf (p : Ppu) (line : Nat) {ns sec : List Nat} (hns : ∀ n ∈ ns, n < 64)
    (hsec : ObjectBufferWf sec) : ObjectBufferWf (evaluateLoop p line ns sec).1 := by
  induction ns generalizing sec with
  | nil => exact hsec
  | cons n ns ih =>
    obtain ⟨hn, hns⟩ := List.forall_mem_cons.mp hns
    unfold evaluateLoop
    split
    · split
      · next hlen =>
        refine ih hns ⟨by simpa using hlen, ?_⟩
        simp only [List.mem_append, List.mem_singleton]
        rintro m (hm | rfl)
        · exact hsec.2 m hm
        · exact hn
      · exact hsec
    · exact ih hns hsec

theorem objectBufferWf_nil : ObjectBufferWf [] := ⟨by decide, nofun⟩

theorem lineEvent_bufferWf (line : Nat) (c : Cartridge) (p : Ppu) : ObjectBufferWf (lineEvent line c p).sec := by
  unfold lineEvent
  split
  · exact evaluateLoop_bufferWf p line (fun n hn => List.mem_range.mp hn) objectBufferWf_nil
  · exact objectBufferWf_nil

/-- Only the event of a visible line's dot 256 touches the object buffer (R335). -/
theorem ppuEvents_bufferWf (c : Cartridge) {p : Ppu} (h : ObjectBufferWf p.sec) :
    ObjectBufferWf (ppuEvents c p).sec := by
  unfold ppuEvents
  split
  · exact lineEvent_bufferWf p.scanline c p
  · split_ifs <;> exact h

/-- From `p` to `q`, the PPU's storage arrays are the same. -/
structure ArraysKept (p q : Ppu) : Prop where
  oam : q.oam = p.oam
  pal : q.pal = p.pal
  ciram : q.ciram = p.ciram

/-- A tick writes none of the PPU's storage arrays (R335). -/
theorem tick_arraysKept (s : State) : ArraysKept s.ppu (tick s).1.ppu := by
  rw [tick_ppu, handOver_frame, advancePosition_frame, ppuEvents_frame]
  exact ⟨rfl, rfl, rfl⟩

theorem tick_bufferWf {s : State} (h : ObjectBufferWf s.ppu.sec) : ObjectBufferWf (tick s).1.ppu.sec := by
  rw [tick_ppu, handOver_frame, advancePosition_frame]
  exact ppuEvents_bufferWf s.cart h

theorem ppuStep_arraysKept (n : Nat) (s : State) : ArraysKept s.ppu (ppuStep n s).1.ppu := by
  induction n generalizing s with
  | zero => exact ⟨rfl, rfl, rfl⟩
  | succ n ih =>
    have h := tick_arraysKept s
    have h' := ih (tick s).1
    rw [ppuStep_succ]
    exact ⟨h'.oam.trans h.oam, h'.pal.trans h.pal, h'.ciram.trans h.ciram⟩

theorem ppuStep_bufferWf (n : Nat) {s : State} (h : ObjectBufferWf s.ppu.sec) :
    ObjectBufferWf (ppuStep n s).1.ppu.sec := by
  induction n generalizing s with
  | zero => exact h
  | succ n ih => exact ih (tick_bufferWf h)

theorem ppuStep_storageWf (n : Nat) {s : State} (h : StorageWf s) : StorageWf (ppuStep n s).1 := by
  obtain ⟨oam, pal, ciram⟩ := ppuStep_arraysKept n s
  have frame := ppuStep_frame n s
  exact
    { ram := by rw [frame]; exact h.ram
      oam := by rw [oam]; exact h.oam
      pal := by rw [pal]; exact h.pal
      ciram := by rw [ciram]; exact h.ciram
      cart := by rw [frame]; exact h.cart }

/-! ### The steps -/

theorem grant_wf {s : State} (h : s.wf = true) : (grant s).wf = true := by
  obtain ⟨cpu, storage, frame, sec, -⟩ := State.wf_iff.mp h
  exact State.wf_iff.mpr ⟨cpu, ⟨storage.ram, storage.oam, storage.pal, storage.ciram, storage.cart⟩, frame, sec, rfl⟩

/-- The dots of an iteration keep the state well formed once the CPU has spent its credit (R401, R402). -/
theorem ppuTurn_wf {s : State} {dots : Nat} (hd : s.turn = .cpu dots) (hc : s.cpu.credit ≤ 0) (h : s.wf = true) :
    (ppuTurn dots s).wf = true := by
  obtain ⟨cpu, storage, frame, sec, disp⟩ := State.wf_iff.mp h
  have hcpu : (ppuTurn dots s).cpu = { s.cpu with nmiPending := (ppuStep dots s).1.cpu.nmiPending } := by
    show (ppuStep dots s).1.cpu = _
    rw [ppuStep_frame]
  have hacc : (ppuTurn dots s).acc = s.acc := by
    show (ppuStep dots s).1.acc = _
    rw [ppuStep_frame]
  obtain ⟨ram, oam, pal, ciram, cart⟩ := ppuStep_storageWf dots storage
  refine State.wf_iff.mpr ⟨?_, ⟨ram, oam, pal, ciram, cart⟩, (ppuStep_frameInv dots frame).1, ppuStep_bufferWf dots sec,
    dispatcherWf_of_spent (hacc.trans ((dispatcherWf_of_cpu hd).mp disp)) ?_⟩
  · rw [hcpu]
    exact cpu
  · rw [hcpu]
    exact hc

/-- Every step keeps well-formedness: the grant, the PPU's dots, and the three ways of a CPU step, which are paths. -/
theorem step_wf {s t : State} (hs : s.wf = true) (h : step s = .next t) : t.wf = true := by
  have cpu : s.cpu.wf = true := (State.wf_iff.mp hs).1
  cases (step_cases h).2 with
  | grant _ => exact grant_wf hs
  | ppu dots hd hc => exact ppuTurn_wf hd hc hs
  | nmi dots hd _ _ => exact (nmiEntry_cpuPath s).wf hd hs (nmiEntry_cpuWf cpu)
  | invalid dots hd _ _ _ => exact (invalidOpcode_cpuPath s).wf hd hs (invalidOpcode_cpu s ▸ cpu)
  | instr dots i s1 s2 hd _ _ hf he => exact (instruction_cpuPath hf he).wf hd hs (instruction_cpuWf hf he cpu)

end Sys2Proof.Machine

open Sys2Proof Sys2Proof.Machine

/-- Settles O59: each of the five ways a step answers keeps every part of well-formedness. -/
theorem stepKeepsTheStateWellFormed : Obligations.StepKeepsTheStateWellFormed := by
  unfold Obligations.StepKeepsTheStateWellFormed
  intro s t hs h
  exact step_wf hs h

/-- Settles O58: the parts of well-formedness, each on the state after reset. -/
theorem resetStateIsWellFormed : Obligations.ResetStateIsWellFormed := by
  unfold Obligations.ResetStateIsWellFormed
  have frame : FrameInv State.reset.ppu := ⟨by decide, by decide, by decide, .inl rfl⟩
  exact State.wf_iff.mpr ⟨by decide, reset_storageWf, frame, objectBufferWf_nil, by decide⟩

end

section
/-! PROOF. The CPU bus: which region each row of the address table is (O31), work RAM through its mirrors (O32), and what a
read may change (O33) (20_memory R60 to R73). -/

namespace Sys2Proof.Machine

open Sys2Proof.Claims

variable {a : Word}

/-! ### The decoder, row by row -/

theorem regionOf_port (h : 0x2000 ≤ a.toNat) (h' : a.toNat < 0x4000) : regionOf a = .port (portOf (a.toNat % 8)) := by
  unfold regionOf
  simp only
  rw [if_neg (by omega), if_pos h']

/-- The audio and input registers with the DMA port among them, which is $4014 alone (R65 to R68, R72). -/
theorem regionOf_io (h : 0x4000 ≤ a.toNat) (h' : a.toNat < 0x4018) :
    regionOf a = .oamDma ∧ a.toNat = 0x4014
      ∨ regionOf a = .audio ∨ regionOf a = .audioStatus ∨ regionOf a = .input := by
  unfold regionOf
  simp only
  rw [if_neg (by omega), if_neg (by omega)]
  split_ifs with h1 h2 h3
  · exact .inr (.inl rfl)
  · exact .inl ⟨rfl, h2⟩
  · exact .inr (.inr (.inl rfl))
  · exact .inr (.inr (.inr rfl))

theorem regionOf_expansion (h : 0x4018 ≤ a.toNat) (h' : a.toNat < 0x6000) : regionOf a = .expansion := by
  unfold regionOf
  simp only
  iterate 6 rw [if_neg (by omega)]
  rw [if_pos h']

theorem regionOf_saveRam (h : 0x6000 ≤ a.toNat) (h' : a.toNat < 0x8000) :
    regionOf a = .saveRam (a.toNat - 0x6000) := by
  unfold regionOf
  simp only
  iterate 7 rw [if_neg (by omega)]
  rw [if_pos h']

theorem regionOf_prgLow (h : 0x8000 ≤ a.toNat) (h' : a.toNat < 0xC000) :
    regionOf a = .prgLow (a.toNat - 0x8000) := by
  unfold regionOf
  simp only
  iterate 8 rw [if_neg (by omega)]
  rw [if_pos h']

/-! ### Accesses, row by row -/

theorem memRead_ram_mirror (h : a.toNat < 0x2000) (s : State) :
    memRead a s = (s.ram.read (a.toNat % 0x800), s) := by
  unfold memRead
  rw [regionOf_ram h]

theorem memWrite_ram_mirror (h : a.toNat < 0x2000) (c : Nat) (v : Byte) (s : State) :
    memWrite c a v s = s.setRam (s.ram.write (a.toNat % 0x800) v) :=
  memWrite_ram (regionOf_ram h) c v s

/-- The port numbers of the statements are the decoder's (R300). -/
theorem portNamed_eq_portOf (k : Nat) : portNamed k = portOf k := by
  match k with
  | 0 | 1 | 2 | 3 | 4 | 5 | 6 => rfl
  | _ + 7 => rfl

theorem memRead_port (h : 0x2000 ≤ a.toNat) (h' : a.toNat < 0x4000) (s : State) :
    memRead a s = portRead (portNamed (a.toNat % 8)) s := by
  unfold memRead
  rw [regionOf_port h h', portNamed_eq_portOf]

theorem memWrite_port (h : 0x2000 ≤ a.toNat) (h' : a.toNat < 0x4000) (c : Nat) (v : Byte) (s : State) :
    memWrite c a v s =
      let w := portWrite (portNamed (a.toNat % 8)) v s.ppu s.cart
      (s.setPpu w.1).setCart w.2 := by
  unfold memWrite
  rw [regionOf_port h h', portNamed_eq_portOf]

theorem memRead_io (h : 0x4000 ≤ a.toNat) (h' : a.toNat < 0x4018) (s : State) :
    ∃ b k, memRead a s = (b, s.setDraws k) := by
  unfold memRead
  obtain ⟨hg, -⟩ | hg | hg | hg := regionOf_io h h' <;> rw [hg] <;> exact ⟨_, _, rfl⟩

/-- Only $4014 of the audio and input registers changes the state when written (R65, R67, R68). -/
theorem memWrite_io (h : 0x4000 ≤ a.toNat) (h' : a.toNat < 0x4018) (hn : a.toNat ≠ 0x4014) (c : Nat) (v : Byte)
    (s : State) : memWrite c a v s = s := by
  unfold memWrite
  obtain ⟨-, hd⟩ | hg | hg | hg := regionOf_io h h'
  · exact absurd hd hn
  all_goals rw [hg]

theorem memRead_saveRam (h : 0x6000 ≤ a.toNat) (h' : a.toNat < 0x8000) (s : State) :
    memRead a s = (s.cart.readSram (a.toNat - 0x6000), s) := by
  unfold memRead
  rw [regionOf_saveRam h h']

theorem memWrite_saveRam (h : 0x6000 ≤ a.toNat) (h' : a.toNat < 0x8000) (c : Nat) (v : Byte) (s : State) :
    memWrite c a v s = s.setCart (s.cart.writeSram (a.toNat - 0x6000) v) := by
  unfold memWrite
  rw [regionOf_saveRam h h']

theorem memRead_prg (h : 0x8000 ≤ a.toNat) (s : State) :
    memRead a s = (s.cart.prg.read ((a.toNat - 0x8000) % s.cart.prgSize.bytes), s) := by
  unfold memRead
  obtain hlow | hhigh := Nat.lt_or_ge a.toNat 0xC000
  · rw [regionOf_prgLow h hlow]
    rfl
  · rw [regionOf_prgHigh hhigh]
    rfl

theorem memWrite_prg (h : 0x8000 ≤ a.toNat) (c : Nat) (v : Byte) (s : State) : memWrite c a v s = s := by
  unfold memWrite
  obtain hlow | hhigh := Nat.lt_or_ge a.toNat 0xC000
  · rw [regionOf_prgLow h hlow]
    rfl
  · rw [regionOf_prgHigh hhigh]
    rfl

/-! ### What a read leaves alone -/

/-- Stored bytes lie in work RAM and in the cartridge (R63, R69 to R71). -/
theorem peek_congr {s t : State} (ram : t.ram = s.ram) (cart : t.cart = s.cart) (b : Word) : peek t b = peek s b := by
  unfold peek
  rw [ram, cart]

theorem peek_memRead (a b : Word) (s : State) : peek (memRead a s).2 b = peek s b :=
  peek_congr (memRead_ram a s) (memRead_cart a s) b

/-- A read off the status and data ports changes at most the count of draws (R73). -/
theorem memRead_pure (hstatus : regionOf a ≠ .port .status) (hdata : regionOf a ≠ .port .data) (s : State) :
    (memRead a s).2 = s.setDraws (memRead a s).2.draws := by
  unfold memRead
  cases hg : regionOf a with
  | port r =>
    cases r with
    | status => exact absurd hg hstatus
    | data => exact absurd hg hdata
    | _ => rfl
  | _ => rfl

/-- No read writes OAM, the palette or the nametables (R73). -/
theorem memRead_arraysKept (a : Word) (s : State) : ArraysKept s.ppu (memRead a s).2.ppu := by
  obtain e | e | ⟨b, e⟩ := memRead_ppu a s
  all_goals
    rw [e]
    exact ⟨rfl, rfl, rfl⟩

end Sys2Proof.Machine

open Sys2Proof Sys2Proof.Machine

/-- Settles O31: the decoder's rows, then what a read and a write do in each row's region. -/
theorem busDecodesEveryAddress : Obligations.BusDecodesEveryAddress := by
  unfold Obligations.BusDecodesEveryAddress
  intro a v c s n
  refine ⟨fun h => ⟨memRead_ram_mirror h s, memWrite_ram_mirror h c v s⟩,
    fun h h' => ⟨memRead_port h h' s, memWrite_port h h' c v s⟩,
    fun h h' => ⟨memRead_io h h' s, fun hn => memWrite_io h h' hn c v s⟩, fun h h' => ?_, fun h h' hs => ?_,
    fun h h' hs => ?_, fun h => ⟨?_, memWrite_prg h c v s⟩⟩
  · simp [memRead, memWrite, regionOf_expansion h h']
  · rw [memRead_saveRam h h', memWrite_saveRam h h', Cartridge.readSram, Cartridge.writeSram, if_pos hs, if_pos hs]
    exact ⟨rfl, rfl⟩
  · have absent : ¬ s.cart.hasSaveRam = true := Bool.eq_false_iff.mp hs
    rw [memRead_saveRam h h', memWrite_saveRam h h', Cartridge.readSram, Cartridge.writeSram, if_neg absent, if_neg absent]
    exact ⟨rfl, rfl⟩
  · rw [memRead_prg h]
    cases s.cart.prgSize <;> rfl

/-- Settles O32: both accesses reach the array at the address modulo $800, and the array reads back what is written. -/
theorem ramReadsBackThroughItsMirrors : Obligations.RamReadsBackThroughItsMirrors := by
  unfold Obligations.RamReadsBackThroughItsMirrors
  intro a b v c s hs ha hb
  obtain ⟨-, storage, -⟩ := State.wf_iff.mp hs
  rw [memWrite_ram_mirror ha, memRead_ram_mirror hb, memRead_ram_mirror hb, setRam_ram]
  exact Memory.read_write_wf storage.ram _ _ v

/-- Settles O33: what a read changes lies outside the stored bytes, the cartridge, the CPU and the PPU's arrays. -/
theorem readSideEffects : Obligations.ReadSideEffects := by
  unfold Obligations.ReadSideEffects
  intro a b s
  obtain ⟨oam, pal, ciram⟩ := memRead_arraysKept a s
  exact ⟨fun hstatus hdata => memRead_pure hstatus hdata s, fun v hv => memRead_of_peek hv, peek_memRead a b s,
    memRead_cart a s, memRead_cpu a s, memRead_ram a s, oam, pal, ciram⟩

end

section
/-! PROOF. OAM DMA: the copy byte by byte, the stall, and the page of stored bytes it leaves in OAM (O34) (20_memory R72). -/

namespace Sys2Proof.Machine

open Sys2Proof.Claims

/-! ### The copy -/

/-- The source of byte `k` of page `d` (R72). -/
theorem wordOf_page (d : Byte) {k : Nat} (hk : k < 256) :
    wordOf (BitVec.ofNat 8 k) d = BitVec.ofNat 16 (256 * d.toNat + k) := by
  apply BitVec.eq_of_toNat_eq
  have := d.isLt
  rw [toNat_wordOf, BitVec.toNat_ofNat, BitVec.toNat_ofNat]
  omega

theorem memRead_oamaddr (a : Word) (s : State) : (memRead a s).2.ppu.oamaddr = s.ppu.oamaddr := by
  obtain e | e | ⟨b, e⟩ := memRead_ppu a s <;> rw [e]

theorem dmaCopy_oamaddr (d : Byte) (n : Nat) (s : State) : (dmaCopy d n s).ppu.oamaddr = s.ppu.oamaddr := by
  induction n with
  | zero => rfl
  | succ n ih => exact (memRead_oamaddr _ _).trans ih

theorem dmaCopy_cpu (d : Byte) (n : Nat) (s : State) : (dmaCopy d n s).cpu = s.cpu := by
  rw [dmaCopy_state]
  rfl

/-- One byte of the copy: a bus read, its byte stored at `oamaddr + k` modulo 256 (R72). -/
theorem dmaCopy_succ (d : Byte) {k : Nat} (hk : k < 256) (s : State) :
    dmaCopy d (k + 1) s =
      let r := memRead (BitVec.ofNat 16 (256 * d.toNat + k)) (dmaCopy d k s)
      r.2.setPpu { r.2.ppu with oam := r.2.ppu.oam.write ((s.ppu.oamaddr.toNat + k) % 256) r.1 } := by
  have cell : ((memRead (BitVec.ofNat 16 (256 * d.toNat + k)) (dmaCopy d k s)).2.ppu.oamaddr + BitVec.ofNat 8 k).toNat
      = (s.ppu.oamaddr.toNat + k) % 256 := by
    rw [memRead_oamaddr, dmaCopy_oamaddr, BitVec.toNat_add, BitVec.toNat_ofNat]
    omega
  simp only [dmaCopy]
  rw [wordOf_page d hk, cell]

/-- A write to $4014 is the copy and the stall (R72). -/
theorem memWrite_oamDma (c : Nat) (d : Byte) (s : State) :
    memWrite c 0x4014#16 d s = (dmaCopy d 256 s).setCpu (paid s.cpu (dmaStall (s.cpu.cycles + c))) := by
  show oamDma c d s = _
  unfold oamDma paid
  simp only
  rw [dmaCopy_cpu]

/-! ### The copy of a page of stored bytes -/

/-- The first `n` bytes of a page of stored bytes stand in OAM from `oamaddr` on, and nothing but OAM has changed. -/
theorem dmaCopy_of_peek {d : Byte} {s : State} {page : Nat → Byte} (hwf : StorageWf s)
    (hpage : ∀ k, k < 256 → peek s (BitVec.ofNat 16 (256 * d.toNat + k)) = some (page k)) {n : Nat} (hn : n ≤ 256) :
    ∃ oam : Memory 8, (∀ k, k < n → oam.read ((s.ppu.oamaddr.toNat + k) % 256) = page k)
      ∧ dmaCopy d n s = s.setPpu { s.ppu with oam := oam } := by
  induction n with
  | zero => exact ⟨s.ppu.oam, nofun, rfl⟩
  | succ n ih =>
    obtain ⟨oam, hread, hcopy⟩ := ih (by omega)
    have wf : oam.wf 256 = true := by simpa [hcopy] using (dmaCopy_storageWf hwf d n).oam
    refine ⟨oam.write ((s.ppu.oamaddr.toNat + n) % 256) (page n), fun k hk => ?_, ?_⟩
    · rw [Memory.read_write_wf wf]
      obtain rfl | hlt := Nat.eq_or_lt_of_le (Nat.le_of_lt_succ hk)
      · rw [if_pos rfl]
      · rw [if_neg (by omega), hread k hlt]
    · have hpeek : peek (s.setPpu { s.ppu with oam := oam }) (BitVec.ofNat 16 (256 * d.toNat + n)) = some (page n) :=
        (peek_congr rfl rfl _).trans (hpage n (by omega))
      rw [dmaCopy_succ d (by omega), hcopy, memRead_of_peek hpeek]
      rfl

end Sys2Proof.Machine

open Sys2Proof Sys2Proof.Machine

/-- Settles O34: the states of the copy are `dmaCopy d k s`, and from stored bytes each read changes nothing. -/
theorem oamDmaCopiesThePage : Obligations.OamDmaCopiesThePage := by
  unfold Obligations.OamDmaCopiesThePage
  intro c d s stalled
  refine ⟨⟨fun k => dmaCopy d k s, rfl, fun k hk => dmaCopy_succ d hk s, memWrite_oamDma c d s⟩, fun page hwf hpage => ?_⟩
  obtain ⟨-, storage, -⟩ := State.wf_iff.mp hwf
  obtain ⟨oam, hread, hcopy⟩ := dmaCopy_of_peek storage hpage (Nat.le_refl 256)
  refine ⟨oam, hread, ?_⟩
  rw [memWrite_oamDma, hcopy]
  rfl

end

section
/-! PROOF. The PPU's address space (O39) and the round trip of a palette entry (O41) (20_memory R75 to R77). -/

namespace Sys2Proof.Machine

variable {a : PpuAddr}

/-! ### The three ranges -/

theorem ppuRead_chr (h : a.toNat < 0x2000) (p : Ppu) (c : Cartridge) : ppuRead p c a = c.chr.read a.toNat := by
  unfold ppuRead
  rw [if_pos h]
  rfl

theorem ppuRead_nametable (h : 0x2000 ≤ a.toNat) (h' : a.toNat < 0x3F00) (p : Ppu) (c : Cartridge) :
    ppuRead p c a = readNametable p c a := by
  unfold ppuRead
  rw [if_neg (by omega), if_pos h']

theorem ppuRead_palette (h : 0x3F00 ≤ a.toNat) (p : Ppu) (c : Cartridge) :
    ppuRead p c a = (p.pal.read (palIndex a)).setWidth 8 := by
  unfold ppuRead
  rw [if_neg (by omega), if_neg (by omega)]

theorem ppuWrite_chr (h : a.toNat < 0x2000) (p : Ppu) (c : Cartridge) (d : Byte) :
    ppuWrite p c a d = (p, c.writeChr a.toNat d) := by
  unfold ppuWrite
  rw [if_pos h]

theorem ppuWrite_nametable (h : 0x2000 ≤ a.toNat) (h' : a.toNat < 0x3F00) (p : Ppu) (c : Cartridge) (d : Byte) :
    ppuWrite p c a d = writeNametable p c a d := by
  unfold ppuWrite
  rw [if_neg (by omega), if_pos h']

theorem ppuWrite_palette (h : 0x3F00 ≤ a.toNat) (p : Ppu) (c : Cartridge) (d : Byte) :
    ppuWrite p c a d = ({ p with pal := p.pal.write (palIndex a) (d.setWidth 6) }, c) := by
  unfold ppuWrite
  rw [if_neg (by omega), if_neg (by omega)]

/-! ### CHR and the palette's entries -/

/-- CHR-RAM stores a write, CHR-ROM ignores it (R374). -/
theorem writeChr_eq (c : Cartridge) (n : Nat) (v : Byte) :
    c.writeChr n v = if c.chrKind = .ram then { c with chr := c.chr.write n v } else c := by
  unfold Cartridge.writeChr
  cases c.chrKind <;> rfl

/-- The palette keeps the low 6 bits of a byte (R76). -/
theorem setWidth_colour (d : Byte) : d.setWidth 6 = BitVec.ofNat 6 (d.toNat % 64) := by
  apply BitVec.eq_of_toNat_eq
  rw [BitVec.toNat_setWidth, BitVec.toNat_ofNat, Nat.mod_mod]

/-- Reading them back gives the byte with its upper two bits cleared (R75, R76). -/
theorem colour_setWidth (d : Byte) : (d.setWidth 6).setWidth 8 = d &&& 0x3F#8 := by
  apply byte_ext
  intro i hi
  interval_cases i <;> simp

/-- Addresses 32 apart reach one entry, and so do those of the entries 0, 4, 8, 12 that are 16 apart (R77). -/
theorem palIndex_eq_of_mirror {b : PpuAddr}
    (h : b.toNat % 32 = a.toNat % 32 ∨ a.toNat % 4 = 0 ∧ b.toNat % 16 = a.toNat % 16) : palIndex b = palIndex a := by
  unfold palIndex
  simp only
  split_ifs <;> omega

end Sys2Proof.Machine

open Sys2Proof Sys2Proof.Machine

/-- Settles O39: the ranges of an access, and in the last the entry it reaches. -/
theorem ppuAddressSpace : Obligations.PpuAddressSpace := by
  unfold Obligations.PpuAddressSpace
  intro a d p c n i
  refine ⟨fun h => ⟨ppuRead_chr h p c, ?_⟩,
    fun h h' => ⟨ppuRead_nametable h h' p c, ppuWrite_nametable h h' p c d⟩, fun h => ⟨?_, ?_⟩⟩
  · rw [ppuWrite_chr h, writeChr_eq]
  · rw [ppuRead_palette h]
    exact BitVec.toNat_setWidth_of_le (by decide)
  · rw [ppuWrite_palette h, setWidth_colour]
    rfl

/-- Settles O41: the two addresses reach one entry, which reads back what was written to it. -/
theorem paletteRoundTrip : Obligations.PaletteRoundTrip := by
  unfold Obligations.PaletteRoundTrip
  intro a b d p c hp ha hb hab
  obtain ⟨-, -, -, hpal, -⟩ := Ppu.wf_iff.mp hp
  have hwf : p.pal.wf 32 = true := ((Bool.and_eq_true _ _).mp hpal).1
  rw [ppuWrite_palette ha, ppuRead_palette hb, palIndex_eq_of_mirror hab, Memory.read_write_wf hwf, if_pos rfl,
    colour_setWidth]

end

section
/-! PROOF. An instruction's accesses: it reads its data addresses and stores to the regions its rule names, and whatever its
accesses leave alone the instruction leaves alone: the other stored bytes (O29), the PPU off its ports (O30). Reads of the
stack, of the pointers in page zero and of the vectors are plain reads of storage and change nothing. -/

namespace Sys2Proof.Machine

open Sys2Proof.Claims

/-! ### Paths of named accesses -/

/-- `t` is reached from `s` by reads of the addresses `data`, writes that reach the regions `stores`, and changes of the
CPU's registers. -/
inductive AccessPath (data : List Word) (stores : List Region) (s : State) : State → Prop where
  | refl : AccessPath data stores s s
  | memRead {t : State} {a : Word} (h : AccessPath data stores s t) (ha : a ∈ data) :
      AccessPath data stores s (memRead a t).2
  | memWrite {t : State} {a : Word} (h : AccessPath data stores s t) (ha : regionOf a ∈ stores) (c : Nat) (v : Byte) :
      AccessPath data stores s (memWrite c a v t)
  | setCpu {t : State} (h : AccessPath data stores s t) (c : Cpu) : AccessPath data stores s (t.setCpu c)

variable {data : List Word} {stores : List Region} {s t : State}

namespace AccessPath

theorem charge (h : AccessPath data stores s t) (n : Nat) : AccessPath data stores s (t.charge n) := h.setCpu _

theorem push (h : AccessPath data stores s t) (ha : regionOf (stackAddr t.cpu.sp) ∈ stores) (v : Byte) :
    AccessPath data stores s (push v t) := (h.memWrite ha 0 v).setCpu _

/-- A pull reads work RAM, so of the state it moves SP only. -/
theorem pull (h : AccessPath data stores s t) : AccessPath data stores s (pull t).2 := by
  rw [pull_eq]
  exact h.setCpu _

end AccessPath

/-! ### Every instruction is a path of its accesses -/

theorem dataAddresses_mem {i : Instr} {m : MemOperand} (hd : i.operand = .data (.mem m)) (s : State) :
    dataAddresses i s = [(effAddr m s).addr] := by
  unfold dataAddresses
  rw [hd]

theorem storedTo_mem {i : Instr} {m : MemOperand} (hd : i.operand = .data (.mem m))
    (hs : storesOperand i.mnemonic = true) (s : State) : storedTo i s = [regionOf (effAddr m s).addr] := by
  unfold storedTo
  rw [hd]
  exact if_pos hs

theorem storeEffect_storesOperand {m : Mnemonic} {v : Cpu → Byte} (hv : storeEffect m = some v) :
    storesOperand m = true := by
  cases m <;> cases hv <;> rfl

theorem modifyEffect_storesOperand {m : Mnemonic} {f : Byte → Byte → Byte × Byte} (hf : modifyEffect m = some f) :
    storesOperand m = true := by
  cases m <;> cases hf <;> rfl

theorem src_accessPath {i : Instr} {d : DataOperand} (hd : i.operand = .data d) (s : State) :
    AccessPath (dataAddresses i s) stores s (src d s).st := by
  cases d with
  | imm n => exact .refl
  | mem m =>
    rw [src_mem, dataAddresses_mem hd]
    exact AccessPath.refl.memRead (by simp)

theorem branchInstr_accessPath {taken : Bool} {n : Byte} {base : Nat} (h : branchInstr taken n base s = .next t) :
    AccessPath data stores s t := by
  cases taken <;> obtain rfl := Host.Outcome.next.inj h
  · exact AccessPath.refl.charge _
  · exact (AccessPath.refl.setCpu _).charge _

/-- Taking a break pushes three bytes; the vector is read from PRG, which changes nothing (R198). -/
theorem enterInterrupt_accessPath (status : Byte) (h : AccessPath data stores s t)
    (h0 : regionOf (stackAddr t.cpu.sp) ∈ stores) (h1 : regionOf (stackAddr (t.cpu.sp - 1#8)) ∈ stores)
    (h2 : regionOf (stackAddr (t.cpu.sp - 2#8)) ∈ stores) :
    AccessPath data stores s (enterInterrupt status breakVector t) := by
  have third : t.cpu.sp - 1#8 - 1#8 = t.cpu.sp - 2#8 := by bv_omega
  unfold enterInterrupt
  simp only
  rw [read16_vector (by decide) (by decide)]
  refine ((((h.push h0 _).push ?_ _).push ?_ status).setCpu _).setCpu _
  · rwa [push_eq]
  · rw [push_eq, push_eq]
    show regionOf (stackAddr (t.cpu.sp - 1#8 - 1#8)) ∈ stores
    rwa [third]

/-- Every instruction reads its data addresses and stores where its rule says, one case per kind of instruction. -/
theorem exec_accessPath {i : Instr} (h : exec i s = .next t) : AccessPath (dataAddresses i s) (storedTo i s) s t := by
  cases instr_kind i with
  | read d u hd hu =>
    rw [exec_read hd hu] at h
    obtain rfl := Host.Outcome.next.inj h
    exact ((src_accessPath hd s).setCpu _).charge _
  | store m v hd hv =>
    rw [exec_store hd hv, storeInstr_eq] at h
    obtain rfl := Host.Outcome.next.inj h
    rw [storedTo_mem hd (storeEffect_storesOperand hv)]
    exact (AccessPath.refl.memWrite (by simp) _ _).charge _
  | modify m f hd hf =>
    rw [exec_modify hd hf, modifyMem_eq] at h
    obtain rfl := Host.Outcome.next.inj h
    rw [storedTo_mem hd (modifyEffect_storesOperand hf), dataAddresses_mem hd]
    exact (((AccessPath.refl.memRead (by simp)).memWrite (by simp) _ _).setCpu _).charge _
  | accumulator f hd hf =>
    rw [exec_accumulator hd hf] at h
    obtain rfl := Host.Outcome.next.inj h
    exact (AccessPath.refl.setCpu _).charge _
  | branch n b hd hb =>
    rw [exec_branch hd hb] at h
    exact branchInstr_accessPath h
  | implied u hd hu =>
    rw [exec_implied hd hu] at h
    obtain rfl := Host.Outcome.next.inj h
    exact (AccessPath.refl.setCpu _).charge _
  | jmpAbs w =>
    obtain rfl := Host.Outcome.next.inj h
    exact (AccessPath.refl.setCpu _).charge _
  | jmpInd w =>
    obtain rfl := Host.Outcome.next.inj h
    have hd : dataAddresses (.jmpInd w) s = [w, wordOf (loByte w + 1#8) (hiByte w)] := rfl
    rw [hd]
    exact (((AccessPath.refl.memRead (by simp)).memRead (by simp)).setCpu _).charge _
  | jsr w =>
    obtain rfl := Host.Outcome.next.inj h
    have hs : storedTo (.jsr w) s = [regionOf (stackAddr s.cpu.sp), regionOf (stackAddr (s.cpu.sp - 1#8))] := rfl
    rw [hs]
    exact (((AccessPath.refl.push (by simp) _).push (by simp [push_eq]) _).setCpu _).charge _
  | rts =>
    obtain rfl := Host.Outcome.next.inj h
    exact (AccessPath.refl.pull.pull.setCpu _).charge _
  | rti =>
    obtain rfl := Host.Outcome.next.inj h
    exact ((AccessPath.refl.pull.setCpu _).pull.pull.setCpu _).charge _
  | brk =>
    obtain rfl := Host.Outcome.next.inj h
    have hs : storedTo .brk s = [regionOf (stackAddr s.cpu.sp), regionOf (stackAddr (s.cpu.sp - 1#8)),
      regionOf (stackAddr (s.cpu.sp - 2#8))] := rfl
    rw [hs]
    exact (enterInterrupt_accessPath _ (AccessPath.refl.setCpu _) (by simp) (by simp) (by simp)).charge _
  | pha | php =>
    obtain rfl := Host.Outcome.next.inj h
    exact (AccessPath.refl.push (List.mem_singleton.mpr rfl) _).charge _
  | pla | plp =>
    obtain rfl := Host.Outcome.next.inj h
    exact (AccessPath.refl.pull.setCpu _).charge _

/-! ### The stored bytes a path leaves alone -/

theorem AccessPath.peek (h : AccessPath data stores s t) {b : Word} (hb : regionOf b ∉ stores) :
    peek t b = peek s b := by
  induction h with
  | refl => rfl
  | memRead _ _ ih => exact (peek_memRead _ _ _).trans ih
  | @memWrite t a _ ha c v ih =>
    have hne : regionOf b ≠ regionOf a := fun e => hb (e ▸ ha)
    exact (peek_memWrite c v t hne).trans ih
  | setCpu _ _ ih => exact ih

/-! ### The PPU off its ports -/

/-- A region where an access is one of storage: no PPU port, no DMA port, no audio or input register (R60). -/
def OffPorts (g : Region) : Prop :=
  (∀ r, g ≠ .port r) ∧ g ≠ .oamDma ∧ g ≠ .audio ∧ g ≠ .audioStatus ∧ g ≠ .input

theorem offPorts_stack (sp : Byte) : OffPorts (regionOf (stackAddr sp)) := by
  rw [regionOf_stackAddr]
  exact ⟨nofun, nofun, nofun, nofun, nofun⟩

theorem peek_of_offPorts {a : Word} (h : OffPorts (regionOf a)) (s : State) : ∃ v, peek s a = some v := by
  obtain ⟨port, dma, audio, status, input⟩ := h
  unfold peek
  cases hg : regionOf a with
  | port r => exact absurd hg (port r)
  | oamDma => exact absurd hg dma
  | audio => exact absurd hg audio
  | audioStatus => exact absurd hg status
  | input => exact absurd hg input
  | _ => exact ⟨_, rfl⟩

/-- From `s` to `t`, the PPU, the storage of the cartridge behind it and the count of draws are the same. -/
structure PpuKept (s t : State) : Prop where
  ppu : t.ppu = s.ppu
  draws : t.draws = s.draws
  chr : t.cart.chr = s.cart.chr
  fourRam : t.cart.fourRam = s.cart.fourRam

theorem PpuKept.trans {u : State} (h : PpuKept s t) (h' : PpuKept t u) : PpuKept s u where
  ppu := h'.ppu.trans h.ppu
  draws := h'.draws.trans h.draws
  chr := h'.chr.trans h.chr
  fourRam := h'.fourRam.trans h.fourRam

theorem memRead_ppuKept {a : Word} (h : OffPorts (regionOf a)) (s : State) : PpuKept s (memRead a s).2 := by
  obtain ⟨v, hv⟩ := peek_of_offPorts h s
  rw [memRead_of_peek hv]
  exact ⟨rfl, rfl, rfl, rfl⟩

theorem memWrite_ppuKept {a : Word} (h : OffPorts (regionOf a)) (c : Nat) (v : Byte) (s : State) :
    PpuKept s (memWrite c a v s) := by
  obtain ⟨port, dma, -⟩ := h
  unfold memWrite
  cases hg : regionOf a with
  | port r => exact absurd hg (port r)
  | oamDma => exact absurd hg dma
  | saveRam off =>
    show PpuKept s (s.setCart (s.cart.writeSram off v))
    unfold Cartridge.writeSram
    split <;> exact ⟨rfl, rfl, rfl, rfl⟩
  | _ => exact ⟨rfl, rfl, rfl, rfl⟩

theorem AccessPath.ppuKept (h : AccessPath data stores s t) (hdata : ∀ a ∈ data, OffPorts (regionOf a))
    (hstores : ∀ g ∈ stores, OffPorts g) : PpuKept s t := by
  induction h with
  | refl => exact ⟨rfl, rfl, rfl, rfl⟩
  | memRead _ ha ih => exact ih.trans (memRead_ppuKept (hdata _ ha) _)
  | memWrite _ ha c v ih => exact ih.trans (memWrite_ppuKept (hstores _ ha) c v _)
  | setCpu _ _ ih => exact ih.trans ⟨rfl, rfl, rfl, rfl⟩

/-- An instruction stores to the region of a data address, or to its stack bytes. -/
theorem storedTo_cases {i : Instr} {g : Region} (h : g ∈ storedTo i s) :
    (∃ a ∈ dataAddresses i s, g = regionOf a) ∨ ∃ sp, g = regionOf (stackAddr sp) := by
  unfold storedTo at h
  split at h
  · next m mn hd =>
    split at h
    · exact .inl ⟨_, by simp [dataAddresses_mem hd], List.mem_singleton.mp h⟩
    · cases h
  · exact .inr ⟨_, List.mem_singleton.mp h⟩
  · exact .inr ⟨_, List.mem_singleton.mp h⟩
  · simp only [List.mem_cons, List.not_mem_nil, or_false] at h
    obtain h | h := h <;> exact .inr ⟨_, h⟩
  · simp only [List.mem_cons, List.not_mem_nil, or_false] at h
    obtain h | h | h := h <;> exact .inr ⟨_, h⟩
  · cases h

end Sys2Proof.Machine

open Sys2Proof Sys2Proof.Machine

/-- Settles O29: an instruction's accesses write the regions of `storedTo`, and a write reaches no stored byte of another. -/
theorem instructionsStoreOnlyWhereTheySay : Obligations.InstructionsStoreOnlyWhereTheySay := by
  unfold Obligations.InstructionsStoreOnlyWhereTheySay
  intro i s t h a ha
  exact (exec_accessPath h).peek ha

/-- Settles O30: with its data accesses off the ports all of an instruction's accesses are, and each keeps the PPU. -/
theorem ppuChangesOnlyThroughPorts : Obligations.PpuChangesOnlyThroughPorts := by
  unfold Obligations.PpuChangesOnlyThroughPorts
  intro i s t h hports hio
  have hdata : ∀ a ∈ Claims.dataAddresses i s, OffPorts (regionOf a) := fun a ha => ⟨hports a ha, hio a ha⟩
  have hstores : ∀ g ∈ Claims.storedTo i s, OffPorts g := fun g hg => by
    obtain ⟨a, ha, rfl⟩ | ⟨sp, rfl⟩ := storedTo_cases hg
    · exact hdata a ha
    · exact offPorts_stack sp
  obtain ⟨ppu, draws, chr, fourRam⟩ := (exec_accessPath h).ppuKept hdata hstores
  exact ⟨ppu, draws, chr, fourRam⟩

end

section
/-! PROOF. The decoder and the encoder: what an opcode's shape reads from its operand bytes, the opcode map against the rows
of the instructions in both directions (O1, O2), the refused opcodes (O3), the table of the rules (O4) and words of the spec
(O5) (30_encoding R100, R101, R114, R115). -/

namespace Sys2Proof

open Sys2Proof.Claims

/-- `sh` reads the operand bytes `bs` as the instruction `i` (R100, R101). -/
inductive Shape.Reads : Shape → List Byte → Instr → Prop where
  | bare (i : Instr) : Reads (.bare i) [] i
  | byte (f : Byte → Instr) (n : Byte) : Reads (.byte f) [n] (f n)
  | word (f : Word → Instr) (w : Word) : Reads (.word f) [loByte w, hiByte w] (f w)

/-! ### The decoder reads what the opcode's shape reads -/

theorem decode_of_reads {op : Byte} {bs : List Byte} {i : Instr} (h : (shapeOf op).Reads bs i) (rest : List Byte) :
    decode (op :: bs ++ rest) = .ok (i, rest) := by
  generalize hs : shapeOf op = sh at h
  cases h with
  | bare => simp [decode, hs]
  | byte f n => simp [decode, hs]
  | word f w => simp [decode, hs, Machine.wordOf_lo_hi]

theorem reads_of_decode {bs rest : List Byte} {i : Instr} (h : decode bs = .ok (i, rest)) :
    ∃ op operand, bs = op :: operand ++ rest ∧ (shapeOf op).Reads operand i := by
  cases bs with
  | nil => cases h
  | cons op tail =>
    refine ⟨op, ?_⟩
    cases hs : shapeOf op with
    | invalid => simp [decode, hs] at h
    | bare j =>
      simp only [decode, hs] at h
      cases h
      exact ⟨[], rfl, .bare i⟩
    | byte f =>
      simp only [decode, hs] at h
      match tail with
      | [] => cases h
      | n :: _ =>
        cases h
        exact ⟨[n], rfl, .byte f n⟩
    | word f =>
      simp only [decode, hs] at h
      match tail with
      | [] | [_] => cases h
      | ll :: hh :: _ =>
        cases h
        have reads := Shape.Reads.word f (wordOf ll hh)
        rw [Machine.loByte_wordOf, Machine.hiByte_wordOf] at reads
        exact ⟨[ll, hh], rfl, reads⟩

theorem decode_eq_invalidOpcode_iff (op : Byte) (rest : List Byte) :
    decode (op :: rest) = .error (.invalidOpcode op) ↔ shapeOf op = .invalid := by
  cases hs : shapeOf op with
  | invalid => simp [decode, hs]
  | bare j => simp [decode, hs]
  | byte f => cases rest <;> simp [decode, hs]
  | word f =>
    match rest with
    | [] | [_] | _ :: _ :: _ => simp [decode, hs]

/-! ### The opcode map and the rows agree -/

/-- At each of the 151 opcodes the map holds the shape of that row's instruction (R115). -/
theorem shapeOf_opcode_reads (i : Instr) : (shapeOf i.row.opcode).Reads i.operand.bytes i := by
  cases i <;> dsimp only [Instr.row] <;> constructor

theorem exists_ofNat_of_byte (b : Byte) : ∃ k < 256, b = BitVec.ofNat 8 k := ⟨b.toNat, b.isLt, by simp⟩

/-- In each of the map's 256 cells stands no instruction, or one whose row has the cell's opcode (R115). -/
theorem encode_of_shapeOf_reads {op : Byte} {bs : List Byte} {i : Instr} (h : (shapeOf op).Reads bs i) :
    encode i = op :: bs := by
  obtain ⟨k, hk, rfl⟩ := exists_ofNat_of_byte op
  interval_cases k <;> cases h <;> rfl

theorem decode_encode (i : Instr) (rest : List Byte) : decode (encode i ++ rest) = .ok (i, rest) :=
  decode_of_reads (shapeOf_opcode_reads i) rest

/-- The map's `--`. -/
def Shape.isInvalid : Shape → Bool
  | .invalid => true
  | .bare _ | .byte _ | .word _ => false

theorem Shape.isInvalid_iff {sh : Shape} : sh.isInvalid = true ↔ sh = .invalid := by
  cases sh <;> simp [isInvalid]

theorem isInvalid_shapeOf (op : Byte) : (shapeOf op).isInvalid = invalidOpcodes.contains op := by
  obtain ⟨k, hk, rfl⟩ := exists_ofNat_of_byte op
  interval_cases k <;> rfl

/-- The 105 bytes R114 lists are the cells where the map prints `--` (R114, R115). -/
theorem shapeOf_eq_invalid_iff (op : Byte) : shapeOf op = .invalid ↔ op ∈ invalidOpcodes := by
  rw [← Shape.isInvalid_iff, isInvalid_shapeOf, List.contains_iff_mem]

/-! ### The table of the rules -/

theorem opcode_mem_encodings (i : Instr) : (i.operand.mode, i.row.opcode) ∈ encodings i.mnemonic := by
  cases i <;> exact List.elem_iff.mp rfl

theorem baseCosts_opcode (i : Instr) : baseCosts[i.row.opcode.toNat]? = some i.row.baseCycles := by
  cases i <;> dsimp only [Instr.row] <;> rfl

theorem pagePenalty_eq (i : Instr) : i.row.pagePenalty = decide (i.row.opcode ∈ penaltyOpcodes) := by
  cases i <;> rfl

theorem instr_encoded (i : Instr) : encoded i := ⟨opcode_mem_encodings i, baseCosts_opcode i, pagePenalty_eq i⟩

theorem instr_wellFormed (i : Instr) : i.wellFormed = true := by
  cases i <;> rfl

theorem length_operand_bytes (o : Operand) : o.bytes.length = o.mode.operandBytes := by
  match o with
  | .implied | .acc | .rel _ | .target _ | .pointer _ | .data (.imm _) => rfl
  | .data (.mem m) => cases m <;> rfl

theorem length_encode (i : Instr) : (encode i).length = i.length := by
  rw [encode, List.length_cons, length_operand_bytes, Instr.length, Nat.add_comm]

/-- A table word whose bytes begin with an instruction's encoding is read as that instruction. -/
theorem decodeTableWord_of_encode {nbits w : Nat} {i : Instr} {rest : List Byte}
    (h : tableBytes nbits w = encode i ++ rest) : decodeTableWord nbits w = some i := by
  unfold decodeTableWord
  rw [h, decode_encode]

end Sys2Proof

open Sys2Proof Sys2Proof.Machine

/-- Settles O1: the map holds at the row's opcode the shape that reads the operand bytes. -/
theorem decodeOfEncodeIsTheInstruction : Obligations.DecodeOfEncodeIsTheInstruction := by
  unfold Obligations.DecodeOfEncodeIsTheInstruction
  exact decode_encode

/-- Settles O2: what the decoder reads is an opcode with its operand bytes, and every cell of the map has its own opcode. -/
theorem decodedBytesAreTheEncoding : Obligations.DecodedBytesAreTheEncoding := by
  unfold Obligations.DecodedBytesAreTheEncoding
  intro bs rest i h
  obtain ⟨op, operand, rfl, hreads⟩ := reads_of_decode h
  rw [encode_of_shapeOf_reads hreads]

/-- Settles O3: the decoder refuses an opcode where the map has no shape, which is at the listed bytes. -/
theorem invalidOpcodesAreTheListed105 : Obligations.InvalidOpcodesAreTheListed105 := by
  unfold Obligations.InvalidOpcodesAreTheListed105
  intro op rest
  rw [decode_eq_invalidOpcode_iff, shapeOf_eq_invalid_iff]

/-- Settles O4: each column of the table, looked up for the 151 instructions. -/
theorem opcodesAreThoseOfTheRules : Obligations.OpcodesAreThoseOfTheRules := by
  unfold Obligations.OpcodesAreThoseOfTheRules
  intro i
  exact ⟨instr_encoded i, instr_wellFormed i, length_encode i⟩

/-- Settles O5: each word's bytes begin with the instruction's encoding, and $02 is one of the refused opcodes. -/
theorem specWordsDecode : Obligations.SpecWordsDecode := by
  unfold Obligations.SpecWordsDecode
  refine ⟨decodeTableWord_of_encode (rest := [0x00#8]) (by decide), decodeTableWord_of_encode (rest := []) (by decide),
    decodeTableWord_of_encode (rest := []) (by decide), decodeTableWord_of_encode (rest := [0x00#8]) (by decide),
    decodeTableWord_of_encode (rest := [0x00#8, 0x00#8]) (by decide),
    decodeTableWord_of_encode (rest := [0x00#8]) (by decide), by decide⟩

end

section
/-! PROOF. A CPU step and the bytes at PC: an instruction's bytes fetched one after another are that instruction (O6), an
invalid opcode is the fault (O7) (30_encoding R101, R114; 44_stack_flags_nop R205; 60_exceptions R435). -/

namespace Sys2Proof.Machine

open Sys2Proof.Claims

variable {s t : State} {i : Instr}

/-! ### Successive fetches -/

theorem fetches_zero (s : State) : fetches 0 s = ([], s) := rfl

theorem fetches_succ (n : Nat) (s : State) :
    fetches (n + 1) s = ((fetchByte s).1 :: (fetches n (fetchByte s).2).1, (fetches n (fetchByte s).2).2) := by
  have hpc : BitVec.ofNat 16 (s.cpu.pc.toNat + 1) = s.cpu.pc + 1#16 := by
    rw [BitVec.ofNat_add, BitVec.ofNat_toNat, BitVec.setWidth_eq]
  simp only [fetches, fetchByte, State.setCpu, memRead_cpu, hpc]

/-- The state with the two fields of the Interrupt-disable slot replaced. -/
def withSlot (carryI pendI : Option Bool) (s : State) : State :=
  { s with cpu := { s.cpu with carryI := carryI, pendI := pendI } }

/-- Fetching does not look at the slot (R101, R205). -/
theorem fetches_withSlot (carryI pendI : Option Bool) (n : Nat) (s : State) :
    fetches n (withSlot carryI pendI s) = ((fetches n s).1, withSlot carryI pendI (fetches n s).2) := by
  induction n generalizing s with
  | zero => rfl
  | succ n ih =>
    have hbyte : fetchByte (withSlot carryI pendI s) = ((fetchByte s).1, withSlot carryI pendI (fetchByte s).2) :=
      fetchByte_slot s carryI pendI
    rw [fetches_succ, fetches_succ, hbyte, ih]

theorem fetchInstr_eq (s : State) :
    fetchInstr s = fetchOperand (shapeOf (fetchByte s).1) (withSlot s.cpu.pendI none (fetchByte s).2) := by
  unfold fetchInstr takeSlot
  dsimp only
  rw [fetchByte_frame]
  rfl

/-- From stored bytes, successive fetches give those bytes and move PC past them (R61, R101). -/
theorem fetches_of_peek {bs : List Byte} {s : State}
    (h : ∀ k : Nat, k < bs.length → peek s (s.cpu.pc + BitVec.ofNat 16 k) = bs[k]?) :
    fetches bs.length s = (bs, { s with cpu := { s.cpu with pc := s.cpu.pc + BitVec.ofNat 16 bs.length } }) := by
  induction bs generalizing s with
  | nil => simp [fetches]
  | cons b bs ih =>
    have hb : peek s s.cpu.pc = some b := by simpa using h 0 (by simp)
    have hpc (k : Nat) : s.cpu.pc + 1#16 + BitVec.ofNat 16 k = s.cpu.pc + BitVec.ofNat 16 (k + 1) := by
      rw [BitVec.add_assoc, ← BitVec.ofNat_add, Nat.add_comm 1]
    have htail : ∀ k : Nat, k < bs.length →
        peek { s with cpu := { s.cpu with pc := s.cpu.pc + 1#16 } } (s.cpu.pc + 1#16 + BitVec.ofNat 16 k) = bs[k]? := by
      intro k hk
      rw [hpc]
      exact h (k + 1) (by simpa using hk)
    rw [List.length_cons, fetches_succ, fetchByte_of_peek hb]
    dsimp only
    rw [ih htail]
    dsimp only
    rw [hpc]

/-! ### The instruction at PC -/

/-- The operands of a shape are fetched as the bytes it reads. -/
theorem fetchOperand_of_fetches {sh : Shape} {bs : List Byte} (h : sh.Reads bs i)
    (hbs : (fetches bs.length s).1 = bs) : fetchOperand sh s = some (i, (fetches bs.length s).2) := by
  cases h with
  | bare => rfl
  | byte f n =>
    simp only [List.length_cons, List.length_nil, fetches_succ, fetches_zero] at hbs ⊢
    obtain ⟨hn, -⟩ := List.cons.inj hbs
    rw [fetchOperand, hn]
  | word f w =>
    simp only [List.length_cons, List.length_nil, fetches_succ, fetches_zero] at hbs ⊢
    obtain ⟨hlo, htail⟩ := List.cons.inj hbs
    obtain ⟨hhi, -⟩ := List.cons.inj htail
    rw [fetchOperand, hlo, hhi, wordOf_lo_hi]

/-- When the bytes fetched from PC on are an instruction's, that instruction is fetched and the slot taken (R101, R205). -/
theorem fetchInstr_of_fetches (h : (fetches i.length s).1 = encode i) :
    fetchInstr s = some (i, withSlot s.cpu.pendI none (fetches i.length s).2) := by
  rw [← length_encode, encode, List.length_cons, fetches_succ] at h ⊢
  obtain ⟨hop, hbs⟩ := List.cons.inj h
  have hoperand := fetches_withSlot s.cpu.pendI none i.operand.bytes.length (fetchByte s).2
  have hreads := fetchOperand_of_fetches (shapeOf_opcode_reads i) (by rw [hoperand]; exact hbs)
  rw [hoperand] at hreads
  rw [fetchInstr_eq, hop]
  exact hreads

/-! ### The slot when the instruction completes -/

theorem putBit_two (p : Byte) (v : Bool) : putBit p 2 v = (p &&& 0xFB#8) ||| (if v then 0x04#8 else 0x00#8) := by
  apply byte_ext
  intro j hj
  rw [getLsbD_putBit _ _ _ _ (by omega)]
  cases v <;> interval_cases j <;> simp

/-- The instructions that write I directly are BRK and RTI (R205). -/
theorem supersedesI_eq (i : Instr) : supersedesI i = decide (i.mnemonic = .brk ∨ i.mnemonic = .rti) := by
  cases i <;> rfl

/-- Completing an instruction is R205's rule for the value carried since the boundary. -/
theorem complete_eq_completed (i : Instr) (t : State) : complete i t = completed i t.cpu.carryI t := by
  unfold complete completed Cpu.completeSlot
  cases hc : t.cpu.carryI with
  | none => simp [State.setCpu, ← hc]
  | some v => simp only [State.setCpu, supersedesI_eq, decide_eq_true_eq, putBit_two]

/-! ### The step -/

theorem step_of_fetchInstr (hdue : s.cpuDue = true) (hn : s.cpu.nmiPending = false) {u : State}
    (hf : fetchInstr s = some (i, withSlot s.cpu.pendI none u))
    (he : exec i (withSlot s.cpu.pendI none u) = .next t) :
    step s = .next (completed i s.cpu.pendI t) := by
  have hcarry : t.cpu.carryI = s.cpu.pendI := (exec_execFrame he).cpu.carryI
  rw [step_of_cpuDue hdue, cpuStep, hn, instruction, hf]
  simp only [he]
  rw [complete_eq_completed, hcarry]
  rfl

/-- No instruction is fetched at an invalid opcode (R114). -/
theorem fetchInstr_of_invalid (h : (memRead s.cpu.pc s).1 ∈ invalidOpcodes) : fetchInstr s = none := by
  have hshape : shapeOf (fetchByte s).1 = .invalid := (shapeOf_eq_invalid_iff _).mpr h
  rw [fetchInstr_eq, hshape]
  rfl

theorem step_of_invalid (hdue : s.cpuDue = true) (hn : s.cpu.nmiPending = false)
    (h : (memRead s.cpu.pc s).1 ∈ invalidOpcodes) : step s = .next (invalidOpcode s) := by
  rw [step_of_cpuDue hdue, cpuStep, hn, instruction, fetchInstr_of_invalid h]
  rfl

theorem step_of_fault {f : Fault} (h : s.fault = some f) : step s = .fault f := by
  unfold step
  rw [h]

/-- A faulted machine counts as between frames, and the loop's first step answers the fault (R405). -/
theorem runFrame_of_fault {f : Fault} (h : s.fault = some f) : runFrame s = .fault f s := by
  have hbetween : s.betweenFrames = true := by simp [State.betweenFrames, h]
  obtain ⟨k, hfuel⟩ : ∃ k, frameFuel s = k + 1 := ⟨89999 + s.cpu.credit.toNat, by unfold frameFuel; omega⟩
  rw [runFrame, if_pos hbetween, hfuel, runLoop, step_of_fault h]

end Sys2Proof.Machine

open Sys2Proof Sys2Proof.Machine

/-- Settles O6: the fetches give the instruction with the slot taken, and its completion is R205's rule. -/
theorem stepRunsTheDecodedInstruction : Obligations.StepRunsTheDecodedInstruction := by
  unfold Obligations.StepRunsTheDecodedInstruction
  intro s t i hdue hn u
  refine ⟨fun hbytes he => step_of_fetchInstr hdue hn (fetchInstr_of_fetches hbytes) he, fun hpeek he => ?_⟩
  rw [← length_encode] at hpeek
  have hfetches := fetches_of_peek hpeek
  rw [length_encode] at hfetches
  have hinstr := fetchInstr_of_fetches (congrArg Prod.fst hfetches)
  rw [hfetches] at hinstr
  exact step_of_fetchInstr hdue hn hinstr he

/-- Settles O7: the opcode's shape is invalid, so the step sets the mark; a set mark is answered before all else. -/
theorem invalidOpcodeFaultsTheMachine : Obligations.InvalidOpcodeFaultsTheMachine := by
  unfold Obligations.InvalidOpcodeFaultsTheMachine
  exact ⟨fun s hdue hn h => step_of_invalid hdue hn h, fun s f h => ⟨step_of_fault h, runFrame_of_fault h⟩⟩

end

section
/-! PROOF. The effective address of every mode in arithmetic on naturals (O26) (30_encoding R105 to R111, R118). -/

namespace Sys2Proof.Machine

theorem zext16_eq_ofNat (n : Byte) : zext16 n = BitVec.ofNat 16 n.toNat := (BitVec.ofNat_toNat 16 n).symm

theorem wordOf_eq_ofNat (lo hi : Byte) : wordOf lo hi = BitVec.ofNat 16 (lo.toNat + 256 * hi.toNat) := by
  rw [← toNat_wordOf, BitVec.ofNat_toNat, BitVec.setWidth_eq]

theorem toNat_hiByte (w : Word) : (hiByte w).toNat = w.toNat / 256 := by
  have := w.isLt
  rw [hiByte, BitVec.extractLsb'_toNat, Nat.shiftRight_eq_div_pow]
  omega

theorem hiByte_eq_iff (v w : Word) : hiByte v = hiByte w ↔ v.toNat / 256 = w.toNat / 256 := by
  rw [← toNat_hiByte, ← toNat_hiByte, BitVec.toNat_inj]

/-- An indexed address is the sum modulo 2^16, and it crosses where the page of the sum is not the base's (R109, R111). -/
theorem indexed_eq (base : Word) (index : Byte) (s : State) :
    indexed base index s =
      { addr := BitVec.ofNat 16 ((base.toNat + index.toNat) % 65536)
        crossed := decide (base.toNat / 256 ≠ (base.toNat + index.toNat) % 65536 / 256)
        st := s } := by
  have hsum : (base + zext16 index).toNat = (base.toNat + index.toNat) % 65536 := by
    rw [BitVec.toNat_add, toNat_zext16]
  have hcross : (hiByte base != hiByte (base + zext16 index))
      = decide (base.toNat / 256 ≠ (base.toNat + index.toNat) % 65536 / 256) := by
    rw [Bool.eq_iff_iff, bne_iff_ne, decide_eq_true_eq, ← hsum, Ne, hiByte_eq_iff]
  rw [indexed, hcross, ← hsum, BitVec.ofNat_toNat, BitVec.setWidth_eq]

/-- The 16-bit value of the pointer in page zero at `k`, its high byte's address wrapping in the page (R110, R111). -/
def pointerValue (ram : Memory 8) (k : Nat) : Nat := (ram.read k).toNat + 256 * (ram.read ((k + 1) % 256)).toNat

theorem pointerValue_lt (ram : Memory 8) (k : Nat) : pointerValue ram k < 65536 := by
  have hlo := (ram.read k).isLt
  have hhi := (ram.read ((k + 1) % 256)).isLt
  unfold pointerValue
  omega

theorem zeroPagePointer_eq_ofNat (n : Byte) (s : State) :
    zeroPagePointer n s = (BitVec.ofNat 16 (pointerValue s.ram n.toNat), s) := by
  rw [zeroPagePointer_eq, wordOf_eq_ofNat, BitVec.toNat_add]
  rfl

theorem effAddr_zp (n : Byte) (s : State) : effAddr (.zp n) s = ⟨BitVec.ofNat 16 n.toNat, false, s⟩ := by
  rw [effAddr, zext16_eq_ofNat]

theorem effAddr_zpX (n : Byte) (s : State) :
    effAddr (.zpX n) s = ⟨BitVec.ofNat 16 ((n.toNat + s.cpu.x.toNat) % 256), false, s⟩ := by
  rw [effAddr, zext16_eq_ofNat, BitVec.toNat_add]

theorem effAddr_zpY (n : Byte) (s : State) :
    effAddr (.zpY n) s = ⟨BitVec.ofNat 16 ((n.toNat + s.cpu.y.toNat) % 256), false, s⟩ := by
  rw [effAddr, zext16_eq_ofNat, BitVec.toNat_add]

theorem effAddr_indX (n : Byte) (s : State) :
    effAddr (.indX n) s = ⟨BitVec.ofNat 16 (pointerValue s.ram ((n.toNat + s.cpu.x.toNat) % 256)), false, s⟩ := by
  rw [effAddr, zeroPagePointer_eq_ofNat, BitVec.toNat_add]

theorem effAddr_indY (n : Byte) (s : State) :
    effAddr (.indY n) s = indexed (BitVec.ofNat 16 (pointerValue s.ram n.toNat)) s.cpu.y s := by
  rw [effAddr, zeroPagePointer_eq_ofNat]

end Sys2Proof.Machine

open Sys2Proof Sys2Proof.Machine

/-- Settles O26: the sums and pointers of the modes as naturals, each computed without a change of the state. -/
theorem effectiveAddresses : Obligations.EffectiveAddresses := by
  unfold Obligations.EffectiveAddresses
  intro n w s x y pointer indexedBy
  have hindY : effAddr (.indY n) s = indexedBy (pointer n.toNat) y := by
    rw [effAddr_indY, indexed_eq, BitVec.toNat_ofNat, Nat.mod_eq_of_lt (pointerValue_lt s.ram n.toNat)]
    rfl
  exact ⟨effAddr_zp n s, effAddr_zpX n s, effAddr_zpY n s, rfl, indexed_eq w s.cpu.x s,
    indexed_eq w s.cpu.y s, effAddr_indX n s, hindY, rfl, fun m => src_mem m s⟩

end

section
/-! PROOF. What an instruction charges to `cycles` and `credit`: its base, its page crossing or taken branch, and the stall
of an OAM DMA (O27) (30_encoding R116, 43_control_transfer R185, 20_memory R72). -/

namespace Sys2Proof.Machine

open Sys2Proof.Claims

/-! ### Charges -/

/-- From `s` to `t`, `n` cycles have been charged, alike to `cycles` and to `credit` (R402). -/
structure Charged (n : Nat) (s t : State) : Prop where
  cycles : t.cpu.cycles = s.cpu.cycles + n
  credit : t.cpu.credit = s.cpu.credit - n

variable {n : Nat} {i : Instr} {m : MemOperand} {s t : State}

/-- The stall a write of `a` by an instruction of full cost `c` charges (R72). -/
def writeStall (c : Nat) (a : Word) (s : State) : Nat :=
  if regionOf a = .oamDma then dmaStall (s.cpu.cycles + c) else 0

namespace Charged

theorem of_accounts (cycles : t.cpu.cycles = s.cpu.cycles := by rfl)
    (credit : t.cpu.credit = s.cpu.credit := by rfl) : Charged 0 s t :=
  ⟨cycles, by rw [credit]; exact (Int.sub_zero _).symm⟩

theorem refl : Charged 0 s s := of_accounts

theorem setCpu (h : Charged n s t) (c : Cpu) (cycles : c.cycles = t.cpu.cycles := by rfl)
    (credit : c.credit = t.cpu.credit := by rfl) : Charged n s (t.setCpu c) :=
  ⟨cycles.trans h.cycles, credit.trans h.credit⟩

theorem charge (h : Charged n s t) (k : Nat) : Charged (k + n) s (t.charge k) where
  cycles := by
    rw [charge_cpu, cpu_charge_cycles, h.cycles]
    omega
  credit := by
    rw [charge_cpu, cpu_charge_credit, h.credit]
    omega

theorem memRead (h : Charged n s t) (a : Word) : Charged n s (memRead a t).2 :=
  ⟨by rw [memRead_cpu, h.cycles], by rw [memRead_cpu, h.credit]⟩

theorem push (h : Charged n s t) (v : Byte) : Charged n s (push v t) := by
  rw [push_eq]
  exact ⟨h.cycles, h.credit⟩

theorem pull (h : Charged n s t) : Charged n s (pull t).2 := by
  rw [pull_eq]
  exact ⟨h.cycles, h.credit⟩

end Charged

theorem memWrite_cpu_of_not_oamDma {a : Word} (h : regionOf a ≠ .oamDma) (c : Nat) (v : Byte) (s : State) :
    (memWrite c a v s).cpu = s.cpu := by
  unfold memWrite
  cases hg : regionOf a with
  | oamDma => exact absurd hg h
  | _ => rfl

/-- A write charges an OAM DMA's stall where it reaches $4014, and nothing elsewhere (R72). -/
theorem memWrite_charged (c : Nat) (a : Word) (v : Byte) (s : State) :
    Charged (writeStall c a s) s (memWrite c a v s) := by
  unfold writeStall
  split
  · next h =>
    unfold memWrite
    rw [h]
    unfold oamDma
    exact ⟨by simp [dmaCopy_cpu], by simp [dmaCopy_cpu]⟩
  · next h => exact .of_accounts (by rw [memWrite_cpu_of_not_oamDma h]) (by rw [memWrite_cpu_of_not_oamDma h])

/-- The read of a read-modify-write charges nothing (R119). -/
theorem modify_charged (c : Nat) (a : Word) (v : Byte) (s : State) :
    Charged (writeStall c a s) s (memWrite c a v (memRead a s).2) := by
  have hwrite := memWrite_charged c a v (memRead a s).2
  rw [writeStall, memRead_cpu] at hwrite
  exact ⟨hwrite.cycles.trans (by rw [memRead_cpu]; rfl), hwrite.credit.trans (by rw [memRead_cpu]; rfl)⟩

/-! ### The cost beyond the base, kind by kind -/

/-- The cost of the operand's mode: a page crossing or a taken branch. -/
def operandCycles (i : Instr) (s : State) : Nat :=
  match i.operand with
  | .data (.mem m) => if i.row.pagePenalty && (effAddr m s).crossed then 1 else 0
  | .rel n =>
    if branchCondition s.cpu.p i.mnemonic = some true then
      branchPenalty s.cpu.pc (branchTo s.cpu.pc n) else 0
  | _ => 0

/-- The cost of an OAM DMA by the instruction. -/
def stallCycles (i : Instr) (s : State) : Nat :=
  if Region.oamDma ∈ storedTo i s then dmaStall (s.cpu.cycles + i.row.baseCycles) else 0

theorem extraCycles_eq (i : Instr) (s : State) : extraCycles i s = operandCycles i s + stallCycles i s := rfl

theorem operandCycles_data {d : DataOperand} (hd : i.operand = .data d) (s : State) :
    operandCycles i s = if i.row.pagePenalty && (src d s).crossed then 1 else 0 := by
  unfold operandCycles
  rw [hd]
  cases d with
  | imm n => simp
  | mem m => simp [src_mem]

/-- Only a store or a read-modify-write in memory reaches the DMA port: the other stores are to the stack (R72). -/
theorem stallCycles_eq_zero (h : ∀ m, i.operand = .data (.mem m) → storesOperand i.mnemonic = false) (s : State) :
    stallCycles i s = 0 := by
  refine if_neg fun hdma => ?_
  unfold storedTo at hdma
  split at hdma
  · next _ m hd => simp [h m hd] at hdma
  all_goals simp [regionOf_stackAddr] at hdma

theorem stallCycles_mem (hd : i.operand = .data (.mem m)) (hs : storesOperand i.mnemonic = true) (s : State) :
    stallCycles i s = writeStall i.row.baseCycles (effAddr m s).addr s := by
  simp only [stallCycles, writeStall, storedTo_mem hd hs, List.mem_singleton, eq_comm]

/-- No instruction that stores its operand has the page-cross penalty (R115). -/
theorem pagePenalty_of_storesOperand (h : storesOperand i.mnemonic = true) : i.row.pagePenalty = false := by
  cases i <;> cases h <;> rfl

theorem extraCycles_store (hd : i.operand = .data (.mem m)) (hs : storesOperand i.mnemonic = true) (s : State) :
    extraCycles i s = writeStall i.row.baseCycles (effAddr m s).addr s := by
  rw [extraCycles_eq, operandCycles_data hd, pagePenalty_of_storesOperand hs, stallCycles_mem hd hs]
  exact Nat.zero_add _

theorem readEffect_storesOperand {mn : Mnemonic} {u : Byte → Cpu → Cpu} (hu : readEffect mn = some u) :
    storesOperand mn = false := by
  cases mn <;> cases hu <;> rfl

theorem extraCycles_read {d : DataOperand} {u : Byte → Cpu → Cpu} (hd : i.operand = .data d)
    (hu : readEffect i.mnemonic = some u) (s : State) :
    extraCycles i s = if i.row.pagePenalty && (src d s).crossed then 1 else 0 := by
  rw [extraCycles_eq, operandCycles_data hd, stallCycles_eq_zero fun _ _ => readEffect_storesOperand hu]
  rfl

theorem branchEffect_condition {mn : Mnemonic} {b : Byte → Bool} (hb : branchEffect mn = some b) (p : Byte) :
    branchCondition p mn = some (b p) := by
  cases mn <;> cases hb <;> rfl

theorem branchTo_eq_branchTarget (next : Word) (n : Byte) : branchTo next n = branchTarget next n := by
  rw [branchTo, BitVec.ofInt_add, BitVec.ofInt_natCast, BitVec.ofNat_toNat, BitVec.setWidth_eq]
  rfl

theorem operandCycles_branch {n : Byte} {b : Byte → Bool} (hd : i.operand = .rel n)
    (hb : branchEffect i.mnemonic = some b) (s : State) :
    operandCycles i s =
      if b s.cpu.p then if hiByte s.cpu.pc = hiByte (branchTarget s.cpu.pc n) then 1 else 2 else 0 := by
  unfold operandCycles
  rw [hd]
  simp only [branchEffect_condition hb, Option.some.injEq, branchPenalty, branchTo_eq_branchTarget, hiByte_eq_iff]

theorem extraCycles_branch {n : Byte} {b : Byte → Bool} (hd : i.operand = .rel n)
    (hb : branchEffect i.mnemonic = some b) (s : State) :
    extraCycles i s =
      if b s.cpu.p then if hiByte s.cpu.pc = hiByte (branchTarget s.cpu.pc n) then 1 else 2 else 0 := by
  rw [extraCycles_eq, operandCycles_branch hd hb, stallCycles_eq_zero fun m hm => nomatch hd.symm.trans hm]
  rfl

/-- The operands that are neither data nor an offset: their modes have no cost of their own (R116). -/
def freeOperand : Operand → Bool
  | .data _ | .rel _ => false
  | .implied | .acc | .target _ | .pointer _ => true

/-- An instruction without data and without an offset costs its base. -/
theorem extraCycles_of_free (h : freeOperand i.operand = true) (s : State) : extraCycles i s = 0 := by
  have hmem (m : MemOperand) (hm : i.operand = .data (.mem m)) : storesOperand i.mnemonic = false := by
    rw [hm] at h
    cases h
  rw [extraCycles_eq, stallCycles_eq_zero hmem]
  unfold operandCycles
  cases ho : i.operand with
  | data d =>
    rw [ho] at h
    cases h
  | rel n =>
    rw [ho] at h
    cases h
  | _ => rfl

/-! ### What each kind charges -/

theorem pageCost_eq (base : Nat) (penalty crossed : Bool) :
    pageCost base penalty crossed = base + if penalty && crossed then 1 else 0 := by
  unfold pageCost
  split <;> rfl

theorem readInstr_charged {mn : Mnemonic} {u : Byte → Cpu → Cpu} (hu : readEffect mn = some u) {d : DataOperand}
    {base : Nat} {penalty : Bool} (h : readInstr u d base penalty s = .next t) :
    Charged (base + if penalty && (src d s).crossed then 1 else 0) s t := by
  rw [readInstr_eq, pageCost_eq] at h
  obtain rfl := Host.Outcome.next.inj h
  have frame := readEffect_frame hu (src d s).value s.cpu
  have read : Charged 0 s ((src d s).st.setCpu (u (src d s).value s.cpu)) :=
    .of_accounts (by rw [setCpu_cpu, frame]) (by rw [setCpu_cpu, frame])
  exact read.charge _

theorem storeInstr_charged {v : Byte} {base : Nat} (h : storeInstr v m base s = .next t) :
    Charged (base + writeStall base (effAddr m s).addr s) s t := by
  rw [storeInstr_eq] at h
  obtain rfl := Host.Outcome.next.inj h
  exact (memWrite_charged _ _ _ _).charge base

theorem modifyMem_charged {f : Byte → Byte → Byte × Byte} {base : Nat} (h : modifyMem f m base s = .next t) :
    Charged (base + writeStall base (effAddr m s).addr s) s t := by
  rw [modifyMem_eq] at h
  obtain rfl := Host.Outcome.next.inj h
  exact ((modify_charged _ _ _ _).setCpu _).charge base

theorem branchInstr_charged {taken : Bool} {n : Byte} {base : Nat} (h : branchInstr taken n base s = .next t) :
    Charged (base + if taken then if hiByte s.cpu.pc = hiByte (branchTarget s.cpu.pc n) then 1 else 2 else 0) s t := by
  cases taken with
  | true =>
    obtain rfl := Host.Outcome.next.inj h
    exact (Charged.refl.setCpu _).charge _
  | false =>
    obtain rfl := Host.Outcome.next.inj h
    exact Charged.refl.charge _

theorem impliedInstr_charged {mn : Mnemonic} {u : Cpu → Cpu} (hu : impliedEffect mn = some u) {base : Nat}
    (h : impliedInstr u base s = .next t) : Charged base s t := by
  obtain rfl := Host.Outcome.next.inj h
  have frame := impliedEffect_frame hu s.cpu
  exact (Charged.refl.setCpu _ (by rw [frame]) (by rw [frame])).charge base


/-- Every instruction charges its base and its extra cycles, one case per kind of instruction (R116). -/
theorem exec_charged (h : exec i s = .next t) : Charged (i.row.baseCycles + extraCycles i s) s t := by
  cases instr_kind i with
  | read d u hd hu =>
    rw [extraCycles_read hd hu]
    exact readInstr_charged hu (exec_read hd hu s ▸ h)
  | store m v hd hv =>
    rw [extraCycles_store hd (storeEffect_storesOperand hv)]
    exact storeInstr_charged (exec_store hd hv s ▸ h)
  | modify m f hd hf =>
    rw [extraCycles_store hd (modifyEffect_storesOperand hf)]
    exact modifyMem_charged (exec_modify hd hf s ▸ h)
  | accumulator f hd hf =>
    rw [exec_accumulator hd hf] at h
    obtain rfl := Host.Outcome.next.inj h
    rw [extraCycles_of_free (hd ▸ rfl)]
    exact (Charged.refl.setCpu _).charge _
  | branch n b hd hb =>
    rw [extraCycles_branch hd hb]
    exact branchInstr_charged (exec_branch hd hb s ▸ h)
  | implied u hd hu =>
    rw [extraCycles_of_free (hd ▸ rfl)]
    exact impliedInstr_charged hu (exec_implied hd hu s ▸ h)
  | jmpAbs w =>
    obtain rfl := Host.Outcome.next.inj h
    rw [extraCycles_of_free rfl]
    exact (Charged.refl.setCpu _).charge 3
  | jmpInd w =>
    obtain rfl := Host.Outcome.next.inj h
    rw [extraCycles_of_free rfl]
    exact (((Charged.refl.memRead _).memRead _).setCpu _).charge 5
  | jsr w =>
    obtain rfl := Host.Outcome.next.inj h
    rw [extraCycles_of_free rfl]
    exact (((Charged.refl.push _).push _).setCpu _).charge 6
  | rts =>
    obtain rfl := Host.Outcome.next.inj h
    rw [extraCycles_of_free rfl]
    exact (Charged.refl.pull.pull.setCpu _).charge 6
  | rti =>
    obtain rfl := Host.Outcome.next.inj h
    rw [extraCycles_of_free rfl, returnFromInterrupt_eq]
    exact Charged.charge .of_accounts 6
  | brk =>
    obtain rfl := Host.Outcome.next.inj h
    rw [extraCycles_of_free rfl, enterInterrupt_eq _ (by decide) (by decide)]
    exact Charged.charge .of_accounts 7
  | pha | php =>
    obtain rfl := Host.Outcome.next.inj h
    rw [extraCycles_of_free rfl]
    exact (Charged.refl.push _).charge 3
  | pla | plp =>
    obtain rfl := Host.Outcome.next.inj h
    rw [extraCycles_of_free rfl]
    exact (Charged.refl.pull.setCpu _).charge 4

end Sys2Proof.Machine

open Sys2Proof Sys2Proof.Machine

/-- Settles O27: both accounts of what an instruction charges. -/
theorem everyInstructionCostsItsTableEntry : Obligations.EveryInstructionCostsItsTableEntry := by
  unfold Obligations.EveryInstructionCostsItsTableEntry
  intro i s t h
  obtain ⟨cycles, credit⟩ := exec_charged h
  exact ⟨by rw [cycles, Nat.add_assoc], credit⟩

end

section
/-! PROOF. Loads, stores, transfers and the counts of X and Y (O9 to O11) (40_load_store_transfer R130 to R141,
41_arith_logic R163 to R166): the kinds of `exec` restated in the terms of the rules, `pZN`, `paid` and `readCost`. -/

namespace Sys2Proof.Machine

open Sys2Proof.Claims

variable {i : Instr} {s : State}

/-! ### The rules' flags, counts and costs are the model's -/

theorem setZN_eq_pZN (r p : Byte) : setZN r p = pZN r p := setZN_eq_mask r p

theorem add_one_eq_ofNat (b : Byte) : b + 1#8 = BitVec.ofNat 8 (b.toNat + 1) := by
  bv_omega

theorem sub_one_eq_ofNat (b : Byte) : b - 1#8 = BitVec.ofNat 8 (b.toNat + 255) := by
  bv_omega

theorem pageCost_eq_readCost (i : Instr) (d : DataOperand) (s : State) :
    pageCost i.row.baseCycles i.row.pagePenalty (src d s).crossed = readCost i d s := pageCost_eq _ _ _

/-! ### Each kind of instruction in these terms -/

/-- A reading instruction: beside the read's own side effects, its effect on the registers and its cost. -/
theorem exec_read_paid {d : DataOperand} {u : Byte → Cpu → Cpu} (hd : i.operand = .data d)
    (hu : readEffect i.mnemonic = some u) :
    exec i s = .next { (src d s).st with cpu := paid (u (src d s).value s.cpu) (readCost i d s) } := by
  rw [exec_read hd hu, readInstr_eq, pageCost_eq_readCost]
  rfl

/-- A storing instruction: one write at the effective address and the row's cost. -/
theorem exec_store_paid {m : MemOperand} {v : Cpu → Byte} (hd : i.operand = .data (.mem m))
    (hv : storeEffect i.mnemonic = some v) :
    exec i s = .next { memWrite i.row.baseCycles (effAddr m s).addr (v s.cpu) s with
      cpu := paid (memWrite i.row.baseCycles (effAddr m s).addr (v s.cpu) s).cpu i.row.baseCycles } := by
  rw [exec_store hd hv, storeInstr_eq]
  rfl

/-- The instructions that work on the CPU registers alone are implied and cost 2 cycles. -/
theorem implied_of_impliedEffect {u : Cpu → Cpu} (hu : impliedEffect i.mnemonic = some u) :
    i.operand = .implied ∧ i.row.baseCycles = 2 := by
  cases i <;> cases hu <;> exact ⟨rfl, rfl⟩

/-- An instruction on the CPU registers alone: its effect and 2 cycles. -/
theorem exec_implied_paid {u : Cpu → Cpu} (hu : impliedEffect i.mnemonic = some u) :
    exec i s = .next { s with cpu := paid (u s.cpu) 2 } := by
  obtain ⟨hd, hbase⟩ := implied_of_impliedEffect hu
  rw [exec_implied hd hu, hbase]
  rfl

/-! ### The rules' register effects are the model's -/

theorem loadA_eq (m : Byte) (c : Cpu) : loadA m c = { c with a := m, p := pZN m c.p } := by
  rw [loadA, setZN_eq_pZN]

theorem loadX_eq (m : Byte) (c : Cpu) : loadX m c = { c with x := m, p := pZN m c.p } := by
  rw [loadX, setZN_eq_pZN]

theorem loadY_eq (m : Byte) (c : Cpu) : loadY m c = { c with y := m, p := pZN m c.p } := by
  rw [loadY, setZN_eq_pZN]

theorem storeEffect_of_storedRegister {mn : Mnemonic} {c : Cpu} {v : Byte} (h : storedRegister c mn = some v) :
    ∃ f, storeEffect mn = some f ∧ f c = v := by
  cases mn <;> cases h <;> exact ⟨_, rfl, rfl⟩

theorem impliedEffect_of_registerEffect {mn : Mnemonic} {c c' : Cpu} (h : registerEffect c mn = some c') :
    ∃ u, impliedEffect mn = some u ∧ u c = c' := by
  cases mn
  case tax | tay | txa | tya | tsx =>
    cases h
    exact ⟨_, rfl, by simp only [setZN_eq_pZN]⟩
  case txs =>
    cases h
    exact ⟨_, rfl, rfl⟩
  case inx | iny =>
    cases h
    exact ⟨_, rfl, by simp only [setZN_eq_pZN, add_one_eq_ofNat]⟩
  case dex | dey =>
    cases h
    exact ⟨_, rfl, by simp only [setZN_eq_pZN, sub_one_eq_ofNat]⟩
  all_goals cases h

end Sys2Proof.Machine

open Sys2Proof Sys2Proof.Machine

/-- Settles O9: each load is the read of its mnemonic, whose effect sets its register and, as masks, Z and N. -/
theorem loadsWriteTheirRegister : Obligations.LoadsWriteTheirRegister := by
  unfold Obligations.LoadsWriteTheirRegister
  intro i d s hd r c
  refine ⟨fun hm => ⟨instr_encoded i, ?_⟩, fun hm => ⟨instr_encoded i, ?_⟩, fun hm => ⟨instr_encoded i, ?_⟩⟩
  · rw [exec_read_paid hd (u := loadA) (by rw [hm]; rfl), loadA_eq]
    rfl
  · rw [exec_read_paid hd (u := loadX) (by rw [hm]; rfl), loadX_eq]
    rfl
  · rw [exec_read_paid hd (u := loadY) (by rw [hm]; rfl), loadY_eq]
    rfl

/-- Settles O10: a transfer or count is an instruction on the CPU registers alone, with the rule's effect. -/
theorem registerTransfersAndCounts : Obligations.RegisterTransfersAndCounts := by
  unfold Obligations.RegisterTransfersAndCounts
  intro i s c h
  obtain ⟨u, hu, rfl⟩ := impliedEffect_of_registerEffect h
  exact ⟨instr_encoded i, exec_implied_paid hu⟩

/-- Settles O11: a store is the one write of its register at the effective address, then its cost. -/
theorem storesWriteTheRegister : Obligations.StoresWriteTheRegister := by
  unfold Obligations.StoresWriteTheRegister
  intro i m s v hd h
  obtain ⟨f, hf, rfl⟩ := storeEffect_of_storedRegister h
  exact ⟨instr_encoded i, exec_store_paid hd hf⟩

end

section
/-! PROOF. Arithmetic, logic, compares and the counts of memory (O12 to O16) (41_arith_logic R151 to R162): the flag
functions as the masks of the rules, the 9-bit sum and the difference in natural numbers, then each effect in those terms. -/

namespace Sys2Proof.Machine

open Sys2Proof.Claims

variable {i : Instr} {s : State}

/-! ### The flags as masks -/

/-- What SetZN keeps of P with C written. -/
theorem setC_and_mask (c : Bool) (p : Byte) :
    setC c p &&& 0x7D#8 = (p &&& 0x7C#8) ||| (if c then 0x01#8 else 0x00#8) := by
  apply byte_ext
  intro j hj
  rw [BitVec.getLsbD_and, getLsbD_setC]
  cases c <;> interval_cases j <;> simp

/-- What SetZN keeps of P with C and V written. -/
theorem setV_setC_and_mask (c v : Bool) (p : Byte) :
    setV v (setC c p) &&& 0x7D#8
      = (p &&& 0x3C#8) ||| (if c then 0x01#8 else 0x00#8) ||| (if v then 0x40#8 else 0x00#8) := by
  apply byte_ext
  intro j hj
  rw [BitVec.getLsbD_and, getLsbD_setV, getLsbD_setC]
  cases c <;> cases v <;> interval_cases j <;> simp

theorem setZN_setC_eq_pCZN (c : Bool) (r p : Byte) : setZN r (setC c p) = pCZN c r p := by
  rw [setZN_eq_pZN, pZN, setC_and_mask, pCZN]

theorem setZN_setV_setC_eq_pCVZN (c v : Bool) (r p : Byte) : setZN r (setV v (setC c p)) = pCVZN c v r p := by
  rw [setZN_eq_pZN, pZN, setV_setC_and_mask, pCVZN]

/-- BIT: Z from the AND, N and V copied from the operand (R160). -/
theorem bitFlags_eq_mask (a m p : Byte) :
    bitFlags a m p = (p &&& 0x3D#8) ||| (if a &&& m = 0#8 then 0x02#8 else 0x00#8) ||| (m &&& 0xC0#8) := by
  apply byte_ext
  intro j hj
  rw [bitFlags, getLsbD_setV, getLsbD_setN, getLsbD_setZ, beq_eq_decide]
  by_cases hz : a &&& m = 0#8 <;> interval_cases j <;> simp [hz]

/-! ### Sums and differences in natural numbers -/

theorem carry_eq_toNat_flagC (p : Byte) : carry p = (flagC p).toNat := by
  rw [carry, flagC, ← BitVec.testBit_toNat, Nat.testBit_zero]
  rcases Nat.mod_two_eq_zero_or_one p.toNat with h | h <;> simp [h]

/-- The 9-bit sum of R152 loses nothing. -/
theorem toNat_sum9 (a m : Byte) (c : Bool) : (sum9 a m c).toNat = a.toNat + m.toNat + c.toNat := by
  have ha := a.isLt
  have hm := m.isLt
  have hc := c.toNat_le
  simp only [sum9, BitVec.toNat_add, BitVec.toNat_setWidth, BitVec.toNat_ofBool]
  omega

theorem adcResult_eq_ofNat (a m : Byte) (c : Bool) :
    adcResult a m c = BitVec.ofNat 8 (a.toNat + m.toNat + c.toNat) := by
  rw [adcResult, ← toNat_sum9, BitVec.ofNat_toNat]

/-- The ninth bit of the sum says that it passed 255. -/
theorem getLsbD_sum9 (a m : Byte) (c : Bool) :
    (sum9 a m c).getLsbD 8 = decide (256 ≤ a.toNat + m.toNat + c.toNat) := by
  rw [← toNat_sum9, ← BitVec.msb_eq_getLsbD_last, BitVec.msb_eq_decide]

/-- The overflow bit: the sign of both operands differs from the result's (R152). -/
theorem overflow_eq_msb (a m r : Byte) :
    ((a ^^^ r) &&& (m ^^^ r)).getLsbD 7 = (a.msb != r.msb && m.msb != r.msb) := by
  simp [BitVec.msb_eq_getLsbD_last]

theorem sub_eq_ofNat (r m : Byte) : r - m = BitVec.ofNat 8 (r.toNat + (256 - m.toNat)) := by
  bv_omega

theorem complement_eq_not (m : Byte) : m ^^^ 0xFF#8 = ~~~m := BitVec.xor_allOnes

theorem toNat_complement (m : Byte) : (m ^^^ 0xFF#8).toNat = 255 - m.toNat := by
  rw [complement_eq_not, BitVec.toNat_not]

/-- The complement has the other sign. -/
theorem msb_complement_bne (m : Byte) (b : Bool) : ((m ^^^ 0xFF#8).msb != b) = (m.msb == b) := by
  rw [complement_eq_not, BitVec.msb_not]
  cases m.msb <;> cases b <;> rfl

/-! ### The rules' effects are the model's -/

/-- ADC's effect (R152), the sum and the result written out once. -/
theorem adcA_eq (m : Byte) (c : Cpu) :
    let sum := c.a.toNat + m.toNat + carry c.p
    let a := BitVec.ofNat 8 sum
    adcA m c = { c with
      a := a, p := pCVZN (decide (256 ≤ sum)) (c.a.msb != a.msb && m.msb != a.msb) a c.p } := by
  simp only [adcA, adcFlags, setZN_setV_setC_eq_pCVZN, overflow_eq_msb, getLsbD_sum9, adcResult_eq_ofNat,
    carry_eq_toNat_flagC]

theorem resultA_eq (r : Byte) (c : Cpu) : resultA r c = { c with a := r, p := pZN r c.p } := by
  rw [resultA, setZN_eq_pZN]

theorem compare_eq (r m p : Byte) :
    compare r m p = pCZN (decide (m.toNat ≤ r.toNat)) (BitVec.ofNat 8 (r.toNat + (256 - m.toNat))) p := by
  rw [compare, setZN_setC_eq_pCZN, sub_eq_ofNat]

theorem readEffect_of_logicResult {mn : Mnemonic} {c : Cpu} {m a : Byte} (h : logicResult c.a m mn = some a) :
    ∃ u, readEffect mn = some u ∧ u m c = { c with a := a, p := pZN a c.p } := by
  cases mn <;> cases h <;> exact ⟨_, rfl, resultA_eq _ _⟩

theorem readEffect_of_comparedRegister {mn : Mnemonic} {c : Cpu} {r : Byte} (h : comparedRegister c mn = some r) :
    ∃ u, readEffect mn = some u ∧ ∀ m, u m c = { c with p := compare r m c.p } := by
  cases mn <;> cases h <;> exact ⟨_, rfl, fun _ => rfl⟩

theorem modifyEffect_of_delta {mn : Mnemonic} {delta : Nat}
    (h : mn = .inc ∧ delta = 1 ∨ mn = .dec ∧ delta = 255) :
    ∃ f, modifyEffect mn = some f
      ∧ ∀ p m : Byte, f p m = (BitVec.ofNat 8 (m.toNat + delta), pZN (BitVec.ofNat 8 (m.toNat + delta)) p) := by
  rcases h with ⟨rfl, rfl⟩ | ⟨rfl, rfl⟩
  · exact ⟨incOp, rfl, fun p m => by rw [incOp, setZN_eq_pZN, add_one_eq_ofNat]⟩
  · exact ⟨decOp, rfl, fun p m => by rw [decOp, setZN_eq_pZN, sub_one_eq_ofNat]⟩

/-- A read-modify-write in memory: one read and one write of the effective address, P, and the row's cost. -/
theorem exec_modify_paid {m : MemOperand} {f : Byte → Byte → Byte × Byte} (hd : i.operand = .data (.mem m))
    (hf : modifyEffect i.mnemonic = some f) :
    let e := (effAddr m s).addr
    let o := f s.cpu.p (memRead e s).1
    let w := memWrite i.row.baseCycles e o.1 (memRead e s).2
    exec i s = .next { w with cpu := { paid w.cpu i.row.baseCycles with p := o.2 } } := by
  rw [exec_modify hd hf, modifyMem_eq]
  rfl

end Sys2Proof.Machine

open Sys2Proof Sys2Proof.Machine

/-- Settles O12: ADC is the read whose effect is the 9-bit sum, in natural numbers and masks; D is not looked at. -/
theorem adcAddsWithCarry : Obligations.AdcAddsWithCarry := by
  unfold Obligations.AdcAddsWithCarry
  intro i d s hd hm r sum a
  refine ⟨instr_encoded i, ?_⟩
  rw [exec_read_paid hd (u := adcA) (by rw [hm]; rfl), adcA_eq]
  rfl

/-- Settles O13: SBC is the sum with the operand's complement, which is 255 less the operand and has the other sign. -/
theorem sbcSubtractsWithBorrow : Obligations.SbcSubtractsWithBorrow := by
  unfold Obligations.SbcSubtractsWithBorrow
  intro i d s hd hm r sum a
  refine ⟨instr_encoded i, ?_⟩
  rw [exec_read_paid hd (u := sbcA) (by rw [hm]; rfl), sbcA, adcA_eq, toNat_complement, msb_complement_bne]
  rfl

/-- Settles O14: each of the three is the read that writes its result to A. -/
theorem logicWritesTheAccumulator : Obligations.LogicWritesTheAccumulator := by
  unfold Obligations.LogicWritesTheAccumulator
  intro i d s a hd h
  obtain ⟨u, hu, heffect⟩ := readEffect_of_logicResult h
  refine ⟨instr_encoded i, ?_⟩
  rw [exec_read_paid hd hu, heffect]
  rfl

/-- Settles O15: a compare is the read that sets P from the difference of its register and the operand, BIT the
read that sets P from its masks. -/
theorem comparesAndBitSetFlags : Obligations.ComparesAndBitSetFlags := by
  unfold Obligations.ComparesAndBitSetFlags
  intro i d s hd m
  refine ⟨fun r hr => ⟨instr_encoded i, ?_⟩, fun hm => ⟨instr_encoded i, ?_⟩⟩
  · obtain ⟨u, hu, heffect⟩ := readEffect_of_comparedRegister hr
    rw [exec_read_paid hd hu, heffect, compare_eq]
    rfl
  · rw [exec_read_paid hd (u := bitA) (by rw [hm]; rfl), bitA, bitFlags_eq_mask]
    rfl

/-- Settles O16: INC and DEC are the read-modify-writes that add 1 and 255 modulo 256. -/
theorem incDecModifyMemory : Obligations.IncDecModifyMemory := by
  unfold Obligations.IncDecModifyMemory
  intro i m s delta hd h e old new w
  obtain ⟨f, hf, heffect⟩ := modifyEffect_of_delta h
  refine ⟨instr_encoded i, ?_⟩
  rw [exec_modify_paid hd hf, heffect]

end

section
/-! PROOF. Shifts and rotates (O17) (42_shift_rotate R175 to R179): the bit shifted out and the bit coming in as numbers,
then the four functions in those terms, of the accumulator and of memory. -/

namespace Sys2Proof.Machine

open Sys2Proof.Claims

variable {i : Instr} {s : State}

/-! ### The bits shifted out -/

theorem getLsbD_seven_eq_decide (m : Byte) : m.getLsbD 7 = decide (128 ≤ m.toNat) := by
  rw [← BitVec.msb_eq_getLsbD_last, BitVec.msb_eq_decide]

theorem getLsbD_zero_eq_decide (m : Byte) : m.getLsbD 0 = decide (m.toNat % 2 = 1) := by
  rw [← BitVec.testBit_toNat, Nat.testBit_zero]

/-! ### The results as natural numbers -/

theorem shiftLeft_one_eq_ofNat (m : Byte) : m <<< 1 = BitVec.ofNat 8 (2 * m.toNat) := by
  bv_omega

theorem shiftRight_one_eq_ofNat (m : Byte) : m >>> 1 = BitVec.ofNat 8 (m.toNat / 2) := by
  bv_omega

theorem getLsbD_ofNat_weight {k j : Nat} (hj : j < 8) (b : Bool) :
    (BitVec.ofNat 8 (2 ^ k * b.toNat)).getLsbD j = (decide (k = j) && b) := by
  rw [BitVec.getLsbD_ofNat, decide_eq_true hj, Bool.true_and]
  cases b
  · simp
  · rw [Bool.toNat_true, mul_one, Nat.testBit_two_pow, Bool.and_true]

/-- A bit written where the byte has a 0 adds its weight. -/
theorem putBit_eq_add {r : Byte} {k : Nat} (hk : k < 8) (h : r.getLsbD k = false) (b : Bool) :
    putBit r k b = r + BitVec.ofNat 8 (2 ^ k * b.toNat) := by
  have hdisjoint : r &&& BitVec.ofNat 8 (2 ^ k * b.toNat) = 0#8 := by
    apply byte_ext
    intro j hj
    rw [BitVec.getLsbD_and, getLsbD_ofNat_weight hj, BitVec.getLsbD_zero]
    by_cases hkj : k = j
    · rw [← hkj, h, Bool.false_and]
    · simp [hkj]
  rw [BitVec.add_eq_or_of_and_eq_zero _ _ hdisjoint]
  apply byte_ext
  intro j hj
  rw [getLsbD_putBit _ _ _ _ hk, BitVec.getLsbD_or, getLsbD_ofNat_weight hj]
  by_cases hkj : k = j
  · simp [← hkj, h]
  · simp [hkj, Ne.symm hkj]

/-- The old C at bit 0, which the left shift has cleared (R178). -/
theorem putBit_shiftLeft_one (m : Byte) (b : Bool) :
    putBit (m <<< 1) 0 b = BitVec.ofNat 8 (2 * m.toNat + b.toNat) := by
  rw [putBit_eq_add (by decide) (by simp), shiftLeft_one_eq_ofNat, ← BitVec.ofNat_add, pow_zero, one_mul]

/-- The old C at bit 7, which the right shift has cleared (R179). -/
theorem putBit_shiftRight_one (m : Byte) (b : Bool) :
    putBit (m >>> 1) 7 b = BitVec.ofNat 8 (m.toNat / 2 + 128 * b.toNat) := by
  rw [putBit_eq_add (by decide) (by simp), shiftRight_one_eq_ofNat, ← BitVec.ofNat_add]
  rfl

/-! ### The four functions, and an instruction on the accumulator -/

theorem shifted_eq (r : Byte) (c : Bool) (p : Byte) : shifted r c p = (r, pCZN c r p) := by
  rw [shifted, setZN_setC_eq_pCZN]

/-- The model's function of a shift or rotate gives the byte and the P of the rules. -/
theorem modifyEffect_of_shiftEffect {mn : Mnemonic} {m p : Byte} {r : Nat} {c : Bool}
    (h : shiftEffect m.toNat (carry p) mn = some (r, c)) :
    ∃ f, modifyEffect mn = some f ∧ f p m = (BitVec.ofNat 8 r, pCZN c (BitVec.ofNat 8 r) p) := by
  cases mn <;> cases h
  case asl => exact ⟨aslOp, rfl, by rw [aslOp, shifted_eq, shiftLeft_one_eq_ofNat, getLsbD_seven_eq_decide]⟩
  case lsr => exact ⟨lsrOp, rfl, by rw [lsrOp, shifted_eq, shiftRight_one_eq_ofNat, getLsbD_zero_eq_decide]⟩
  case rol =>
    exact ⟨rolOp, rfl, by
      rw [rolOp, shifted_eq, putBit_shiftLeft_one, getLsbD_seven_eq_decide, carry_eq_toNat_flagC]⟩
  case ror =>
    exact ⟨rorOp, rfl, by
      rw [rorOp, shifted_eq, putBit_shiftRight_one, getLsbD_zero_eq_decide, carry_eq_toNat_flagC]⟩

theorem baseCycles_of_acc (hd : i.operand = .acc) : i.row.baseCycles = 2 := by
  cases i <;> cases hd <;> rfl

/-- A read-modify-write of the accumulator: A and P, and 2 cycles. -/
theorem exec_accumulator_paid {f : Byte → Byte → Byte × Byte} (hd : i.operand = .acc)
    (hf : modifyEffect i.mnemonic = some f) :
    exec i s = .next { s with cpu := { paid s.cpu 2 with
      a := (f s.cpu.p s.cpu.a).1, p := (f s.cpu.p s.cpu.a).2 } } := by
  rw [exec_accumulator hd hf, baseCycles_of_acc hd]
  rfl

end Sys2Proof.Machine

open Sys2Proof Sys2Proof.Machine

/-- Settles O17: each of the four is the read-modify-write of its function, in A or at the effective address. -/
theorem shiftsAndRotates : Obligations.ShiftsAndRotates := by
  unfold Obligations.ShiftsAndRotates
  constructor
  · intro i s r c hd h
    obtain ⟨f, hf, heffect⟩ := modifyEffect_of_shiftEffect h
    refine ⟨instr_encoded i, ?_⟩
    rw [exec_accumulator_paid hd hf, heffect]
  · intro i m s r c hd e h w
    obtain ⟨f, hf, heffect⟩ := modifyEffect_of_shiftEffect h
    refine ⟨instr_encoded i, ?_⟩
    rw [exec_modify_paid hd hf, heffect]

end

section
/-! PROOF. Control transfer (O18 to O22) (43_control_transfer R185 to R198): the bytes and the word of an address as
natural numbers, the stack operations in the terms `pushed` and `stackByte` of the rules, then each instruction. -/

namespace Sys2Proof.Machine

open Sys2Proof.Claims

/-! ### The two bytes of an address in natural numbers -/

theorem hiByte_eq_ofNat (w : Word) : hiByte w = BitVec.ofNat 8 (w.toNat / 256) := by
  rw [← toNat_hiByte, BitVec.ofNat_toNat, BitVec.setWidth_eq]

theorem loByte_eq_ofNat (w : Word) : loByte w = BitVec.ofNat 8 w.toNat := rfl

/-- The address behind a pointer keeps the pointer's page (R113). -/
theorem nextInPage_eq_ofNat (w : Word) :
    wordOf (loByte w + 1#8) (hiByte w) = BitVec.ofNat 16 (w.toNat / 256 * 256 + (w.toNat + 1) % 256) := by
  have hlo : (loByte w + 1#8).toNat = (w.toNat + 1) % 256 := by
    rw [loByte_eq_ofNat, ← BitVec.ofNat_add, BitVec.toNat_ofNat]
  rw [wordOf_eq_ofNat, hlo, toNat_hiByte, Nat.add_comm, Nat.mul_comm]

/-! ### The stack in the terms of the rules -/

theorem push_eq_pushed (v : Byte) (s : State) :
    push v s = { s with ram := pushed s.ram s.cpu.sp v, cpu := { s.cpu with sp := s.cpu.sp - 1#8 } } := push_eq v s

theorem pull_eq_stackByte (s : State) :
    pull s = (stackByte s.ram (s.cpu.sp + 1#8), { s with cpu := { s.cpu with sp := s.cpu.sp + 1#8 } }) := pull_eq s

theorem sub_one_twice (sp : Byte) : sp - 1#8 - 1#8 = sp - 2#8 := sub_sub sp 1#8 1#8

theorem sub_one_thrice (sp : Byte) : sp - 1#8 - 1#8 - 1#8 = sp - 3#8 := by
  rw [sub_sub, sub_sub]
  rfl

theorem add_one_twice (sp : Byte) : sp + 1#8 + 1#8 = sp + 2#8 := add_assoc sp 1#8 1#8

theorem add_one_thrice (sp : Byte) : sp + 1#8 + 1#8 + 1#8 = sp + 3#8 := by
  rw [add_assoc, add_assoc]
  rfl

/-- Work RAM after the address `w` is pushed, high byte first. -/
def pushedWord (ram : Memory 8) (sp : Byte) (w : Word) : Memory 8 :=
  pushed (pushed ram sp (BitVec.ofNat 8 (w.toNat / 256))) (sp - 1#8) (BitVec.ofNat 8 w.toNat)

theorem push_lo_hi_eq (w : Word) (s : State) :
    push (loByte w) (push (hiByte w) s) =
      { s with ram := pushedWord s.ram s.cpu.sp w, cpu := { s.cpu with sp := s.cpu.sp - 2#8 } } := by
  rw [push_eq_pushed, push_eq_pushed, sub_one_twice, hiByte_eq_ofNat, loByte_eq_ofNat, pushedWord]

theorem putBit_two_true (p : Byte) : putBit p 2 true = p ||| 0x04#8 := by
  apply byte_ext
  intro j hj
  rw [getLsbD_putBit _ _ _ _ (by omega)]
  interval_cases j <;> simp

/-- The entry of BRK and NMI: PC and the status pushed, I set directly, PC from the vector (R198, R425). -/
theorem enterInterrupt_eq_pushed (status : Byte) {vector : Word} (h : 0xC000 ≤ vector.toNat)
    (h' : vector.toNat < 0xFFFF) (s : State) :
    enterInterrupt status vector s =
      { s with
        ram := pushed (pushedWord s.ram s.cpu.sp s.cpu.pc) (s.cpu.sp - 2#8) status
        cpu := { s.cpu with
          sp := s.cpu.sp - 3#8, p := s.cpu.p ||| 0x04#8, pc := vectorWord s.cart (vector.toNat - 0x8000) } } := by
  have hsucc : vector.toNat + 1 - 0x8000 = vector.toNat - 0x8000 + 1 := by omega
  rw [enterInterrupt_eq status h h', sub_one_thrice, sub_one_twice, hiByte_eq_ofNat, loByte_eq_ofNat, putBit_two_true,
    wordOf_eq_ofNat, hsucc]
  rfl

/-- The return of RTI: P, then PC low and high, from the three bytes above SP (R197). -/
theorem returnFromInterrupt_eq_stackByte (s : State) :
    returnFromInterrupt s =
      { s with
        cpu := { s.cpu with
          sp := s.cpu.sp + 3#8
          p := storedP (stackByte s.ram (s.cpu.sp + 1#8))
          pc := BitVec.ofNat 16 ((stackByte s.ram (s.cpu.sp + 2#8)).toNat
            + 256 * (stackByte s.ram (s.cpu.sp + 3#8)).toNat) } } := by
  rw [returnFromInterrupt_eq, add_one_thrice, add_one_twice, wordOf_eq_ofNat]
  rfl

/-! ### Branches -/

theorem branchEffect_of_condition {mn : Mnemonic} {p : Byte} {taken : Bool} (h : branchCondition p mn = some taken) :
    ∃ b, branchEffect mn = some b ∧ b p = taken := by
  cases mn <;> cases h <;> exact ⟨_, rfl, rfl⟩

theorem baseCycles_of_rel {i : Instr} {n : Byte} (hd : i.operand = .rel n) : i.row.baseCycles = 2 := by
  cases i <;> cases hd <;> rfl

theorem branchPenalty_eq (next target : Word) :
    branchPenalty next target = if hiByte next = hiByte target then 1 else 2 := by
  simp only [branchPenalty, hiByte_eq_iff]

/-- A branch not taken costs its base alone; taken, PC is the target and the penalty is added (R185). -/
theorem branchInstr_paid (taken : Bool) (n : Byte) (base : Nat) (s : State) :
    let t := branchTo s.cpu.pc n
    branchInstr taken n base s = .next { s with cpu :=
      if taken then { paid s.cpu (base + branchPenalty s.cpu.pc t) with pc := t } else paid s.cpu base } := by
  rw [branchTo_eq_branchTarget]
  intro t
  rw [branchPenalty_eq]
  cases taken
  · rfl
  · rfl

/-! ### Jumps, calls and returns -/

theorem execJmpInd_paid (w : Word) (s : State) :
    let lo := memRead w s
    let hi := memRead (BitVec.ofNat 16 (w.toNat / 256 * 256 + (w.toNat + 1) % 256)) lo.2
    execJmpInd w s = .next { hi.2 with cpu := { paid s.cpu 5 with
      pc := BitVec.ofNat 16 (lo.1.toNat + 256 * hi.1.toNat) } } := by
  intro lo hi
  have hcpu : hi.2.cpu = s.cpu := by rw [memRead_cpu, memRead_cpu]
  have hpointer : jumpPointer w s = (BitVec.ofNat 16 (lo.1.toNat + 256 * hi.1.toNat), hi.2) := by
    rw [jumpPointer, nextInPage_eq_ofNat, wordOf_eq_ofNat]
  rw [execJmpInd, hpointer, hcpu]
  rfl

theorem execJsr_paid (w : Word) (s : State) :
    execJsr w s = .next { s with
      ram := pushedWord s.ram s.cpu.sp (s.cpu.pc - 1#16)
      cpu := { paid s.cpu 6 with sp := s.cpu.sp - 2#8, pc := w } } := by
  rw [execJsr, push_lo_hi_eq]
  rfl

theorem execRts_paid (s : State) :
    execRts s = .next { s with cpu := { paid s.cpu 6 with
      sp := s.cpu.sp + 2#8
      pc := BitVec.ofNat 16 ((stackByte s.ram (s.cpu.sp + 1#8)).toNat
        + 256 * (stackByte s.ram (s.cpu.sp + 2#8)).toNat + 1) } } := by
  rw [execRts, pull_eq_stackByte, pull_eq_stackByte, add_one_twice, wordOf_eq_ofNat, ← BitVec.ofNat_add]
  rfl

theorem execRti_paid (s : State) :
    execRti s = .next { s with cpu := { paid s.cpu 6 with
      sp := s.cpu.sp + 3#8
      p := storedP (stackByte s.ram (s.cpu.sp + 1#8))
      pc := BitVec.ofNat 16 ((stackByte s.ram (s.cpu.sp + 2#8)).toNat
        + 256 * (stackByte s.ram (s.cpu.sp + 3#8)).toNat) } } := by
  rw [execRti, returnFromInterrupt_eq_stackByte]
  rfl

theorem execBrk_paid (s : State) :
    execBrk s = .next { s with
      ram := pushed (pushedWord s.ram s.cpu.sp (s.cpu.pc + 1#16)) (s.cpu.sp - 2#8) (pushedP s.cpu.p)
      cpu := { paid s.cpu 7 with
        sp := s.cpu.sp - 3#8, p := s.cpu.p ||| 0x04#8, pc := vectorWord s.cart 0x7FFE } } := by
  rw [execBrk, enterInterrupt_eq_pushed _ (by decide) (by decide)]
  rfl

end Sys2Proof.Machine

open Sys2Proof Sys2Proof.Machine

/-- Settles O18: each branch is the shared branch of its condition, with base 2. -/
theorem branchesTestTheirFlag : Obligations.BranchesTestTheirFlag := by
  unfold Obligations.BranchesTestTheirFlag
  intro i n s taken hd h t
  obtain ⟨b, hb, htaken⟩ := branchEffect_of_condition h
  refine ⟨instr_encoded i, ?_⟩
  rw [exec_branch hd hb, htaken, baseCycles_of_rel hd, branchInstr_paid]

/-- Settles O19: the absolute form takes its operand, the indirect one two bytes of the pointer's page. -/
theorem jumpsLoadPc : Obligations.JumpsLoadPc := by
  unfold Obligations.JumpsLoadPc
  exact ⟨fun _ _ => rfl, execJmpInd_paid, fun _ => ⟨instr_encoded _, instr_encoded _⟩⟩

/-- Settles O20: JSR is two pushes and RTS two pulls, and PC is set last. -/
theorem callAndReturn : Obligations.CallAndReturn := by
  unfold Obligations.CallAndReturn
  exact ⟨fun w s => ⟨instr_encoded _, execJsr_paid w s⟩, fun s => ⟨instr_encoded _, execRts_paid s⟩⟩

/-- Settles O21: RTI is the return from an interrupt and 6 cycles. -/
theorem rtiRestoresStatusAndPc : Obligations.RtiRestoresStatusAndPc := by
  unfold Obligations.RtiRestoresStatusAndPc
  exact fun s => ⟨instr_encoded _, execRti_paid s⟩

/-- Settles O22: BRK moves PC over the signature byte, enters the interrupt at the break vector and costs 7 cycles. -/
theorem brkEntersTheBreakHandler : Obligations.BrkEntersTheBreakHandler := by
  unfold Obligations.BrkEntersTheBreakHandler
  exact fun s => ⟨instr_encoded _, execBrk_paid s⟩

end

section
/-! PROOF. Stack, flag and no-operation instructions (O23 to O25) (44_stack_flags_nop R205 to R217): a single flag written
as a mask, then each group of instructions through the laws of the stack and of the implied instructions. -/

namespace Sys2Proof.Machine

open Sys2Proof.Claims

/-! ### One bit of P written, as a mask -/

theorem setWidth_one (n : Nat) : (1#1).setWidth n = 1#n := (BitVec.ofNat_toNat n 1#1).symm

theorem putBit_false {n : Nat} (r : BitVec n) (k : Nat) : putBit r k false = r &&& ~~~(1#n <<< k) := by
  simp [putBit, putBits, setWidth_one]

theorem putBit_true {n : Nat} (r : BitVec n) (k : Nat) : putBit r k true = r ||| 1#n <<< k := by
  have hkeep (m : BitVec n) : r &&& ~~~m ||| m = r ||| m := by
    ext j hj
    simp [Bool.or_and_distrib_right]
  simp [putBit, putBits, setWidth_one, hkeep]

/-- PLP keeps I; every other flag is the pulled one, B dropped and U forced (R209). -/
theorem plpFlags_eq_mask (b p : Byte) : plpFlags b p = (b &&& 0xCB#8) ||| (p &&& 0x04#8) ||| 0x20#8 := by
  apply byte_ext
  intro j hj
  rw [plpFlags, getLsbD_setI, flagI, storedP]
  interval_cases j <;> simp

theorem impliedEffect_of_flagEffect {mn : Mnemonic} {c : Cpu} {p : Byte} (h : flagEffect c.p mn = some p) :
    ∃ u, impliedEffect mn = some u ∧ u c = { c with p := p } := by
  cases mn
  case clc | cld | clv =>
    cases h
    exact ⟨_, rfl, congrArg (fun q => { c with p := q }) (putBit_false c.p _)⟩
  case sec | sed =>
    cases h
    exact ⟨_, rfl, congrArg (fun q => { c with p := q }) (putBit_true c.p _)⟩
  case nop =>
    cases h
    exact ⟨_, rfl, rfl⟩
  all_goals cases h

/-! ### Pushes and pulls -/

theorem push_charge_paid (v : Byte) (n : Nat) (s : State) :
    (push v s).charge n = { s with
      ram := pushed s.ram s.cpu.sp v, cpu := { paid s.cpu n with sp := s.cpu.sp - 1#8 } } := by
  rw [push_eq_pushed]
  rfl

theorem execPla_paid (s : State) :
    let b := stackByte s.ram (s.cpu.sp + 1#8)
    execPla s = .next { s with cpu := { paid s.cpu 4 with sp := s.cpu.sp + 1#8, a := b, p := pZN b s.cpu.p } } := by
  intro b
  rw [execPla, pull_eq_stackByte, setZN_eq_pZN]
  rfl

theorem execPlp_paid (s : State) :
    let b := stackByte s.ram (s.cpu.sp + 1#8)
    execPlp s = .next { s with cpu := { paid s.cpu 4 with
      sp := s.cpu.sp + 1#8
      p := (b &&& 0xCB#8) ||| (s.cpu.p &&& 0x04#8) ||| 0x20#8
      pendI := some (b.getLsbD 2) } } := by
  intro b
  rw [execPlp, pull_eq_stackByte, plpFlags_eq_mask]
  rfl

end Sys2Proof.Machine

open Sys2Proof Sys2Proof.Machine

/-- Settles O23: PHA and PHP are one push and its cost, PLA and PLP one pull, its effect on the registers and its cost. -/
theorem stackInstructions : Obligations.StackInstructions := by
  unfold Obligations.StackInstructions
  intro s b
  refine ⟨instr_encoded _, instr_encoded _, instr_encoded _, instr_encoded _, ?_, ?_, execPla_paid s, execPlp_paid s⟩
  · exact congrArg Host.Outcome.next (push_charge_paid s.cpu.a 3 s)
  · exact congrArg Host.Outcome.next (push_charge_paid (pushedP s.cpu.p) 3 s)

/-- Settles O24: each is an instruction on the CPU registers alone, whose effect is the rule's mask of P. -/
theorem flagInstructionsAndNop : Obligations.FlagInstructionsAndNop := by
  unfold Obligations.FlagInstructionsAndNop
  intro i s p h
  obtain ⟨u, hu, heffect⟩ := impliedEffect_of_flagEffect h
  refine ⟨instr_encoded i, ?_⟩
  rw [exec_implied_paid hu, heffect]
  rfl

/-- Settles O25: CLI and SEI are instructions on the CPU registers alone, whose effect is on the pending slot. -/
theorem cliAndSeiAreDeferred : Obligations.CliAndSeiAreDeferred := by
  unfold Obligations.CliAndSeiAreDeferred
  intro s
  refine ⟨instr_encoded _, instr_encoded _, ?_, ?_⟩
  · exact exec_implied_paid (i := .cli) (u := fun c => { c with pendI := some false }) rfl
  · exact exec_implied_paid (i := .sei) (u := fun c => { c with pendI := some true }) rfl

end

section
/-! PROOF. The PPU's ports and the loopy register operations (O35 to O38, O42) (45_ppu_ports R300 to R312): a written field
as a mask with a number and as a sum, then each port and each operation through the fields it reads and writes. -/

namespace Sys2Proof.Machine

/-! ### A field, read and written -/

section Fields

variable {n len lo : Nat}

/-- The bits of a field of `len` bits from bit `lo` up. -/
def fieldMask (n lo len : Nat) : BitVec n := (BitVec.allOnes len).setWidth n <<< lo

theorem putBits_eq_or_shiftLeft (r : BitVec n) (lo : Nat) (f : BitVec len) :
    putBits r lo f = (r &&& ~~~fieldMask n lo len) ||| f.setWidth n <<< lo := rfl

theorem getLsbD_fieldMask (n lo len i : Nat) :
    (fieldMask n lo len).getLsbD i = decide (i < n ∧ lo ≤ i ∧ i < lo + len) := by
  rw [fieldMask, BitVec.getLsbD_shiftLeft, BitVec.getLsbD_setWidth, BitVec.getLsbD_allOnes, Bool.eq_iff_iff]
  simp only [Bool.and_eq_true, Bool.not_eq_true', decide_eq_true_eq, decide_eq_false_iff_not]
  omega

theorem toNat_field (r : BitVec n) (lo len : Nat) : (r.extractLsb' lo len).toNat = r.toNat / 2 ^ lo % 2 ^ len := by
  rw [BitVec.extractLsb'_toNat, Nat.shiftRight_eq_div_pow]

theorem field_eq_iff (r : BitVec n) (lo : Nat) (f : BitVec len) :
    r.extractLsb' lo len = f ↔ r.toNat / 2 ^ lo % 2 ^ len = f.toNat := by
  rw [← BitVec.toNat_inj, toNat_field]

theorem shiftLeft_field_eq_ofNat (f : BitVec len) (lo : Nat) :
    f.setWidth n <<< lo = BitVec.ofNat n (f.toNat * 2 ^ lo) := by
  apply BitVec.eq_of_toNat_eq
  rw [BitVec.toNat_shiftLeft, BitVec.toNat_setWidth, BitVec.toNat_ofNat, Nat.shiftLeft_eq, Nat.mod_mul_mod]

/-- A written field sets no bit outside its mask. -/
theorem range_of_getLsbD_field {f : BitVec len} {i : Nat} (h : (f.setWidth n <<< lo).getLsbD i = true) :
    i < n ∧ lo ≤ i ∧ i < lo + len := by
  rw [BitVec.getLsbD_shiftLeft, BitVec.getLsbD_setWidth, Bool.and_eq_true, Bool.and_eq_true] at h
  obtain ⟨⟨hn, hlo⟩, hbit⟩ := h
  have hlen : i - lo < len := by
    by_contra hge
    simp [BitVec.getLsbD_of_ge f _ (Nat.le_of_not_lt hge)] at hbit
  simp only [Bool.not_eq_true', decide_eq_true_eq, decide_eq_false_iff_not] at hn hlo
  omega

theorem field_and_not_fieldMask (f : BitVec len) {lo' len' : Nat} (h : lo' + len' ≤ lo ∨ lo + len ≤ lo') :
    f.setWidth n <<< lo &&& ~~~fieldMask n lo' len' = f.setWidth n <<< lo := by
  apply BitVec.eq_of_getLsbD_eq
  intro i hi
  rw [BitVec.getLsbD_and]
  cases hbit : (f.setWidth n <<< lo).getLsbD i
  · rw [Bool.false_and]
  · have hin := range_of_getLsbD_field hbit
    rw [BitVec.getLsbD_not, getLsbD_fieldMask, decide_eq_true hi, decide_eq_false (by omega)]
    rfl

theorem not_fieldMask_and_field (f : BitVec len) (lo : Nat) : ~~~fieldMask n lo len &&& f.setWidth n <<< lo = 0#n := by
  apply BitVec.eq_of_getLsbD_eq
  intro i hi
  rw [BitVec.getLsbD_and, BitVec.getLsbD_zero]
  cases hbit : (f.setWidth n <<< lo).getLsbD i
  · rw [Bool.and_false]
  · rw [BitVec.getLsbD_not, getLsbD_fieldMask, decide_eq_true (range_of_getLsbD_field hbit), Bool.not_true,
      Bool.and_false, Bool.false_and]

theorem putBits_eq_or (r : BitVec n) (lo : Nat) (f : BitVec len) :
    putBits r lo f = (r &&& ~~~fieldMask n lo len) ||| BitVec.ofNat n (f.toNat * 2 ^ lo) := by
  rw [putBits_eq_or_shiftLeft, shiftLeft_field_eq_ofNat]

/-- Two disjoint fields written one after the other. -/
theorem putBits_putBits_eq_or (r : BitVec n) (f : BitVec len) {lo' len' : Nat} (f' : BitVec len')
    (h : lo' + len' ≤ lo ∨ lo + len ≤ lo') :
    putBits (putBits r lo f) lo' f' = (r &&& (~~~fieldMask n lo len &&& ~~~fieldMask n lo' len'))
      ||| BitVec.ofNat n (f.toNat * 2 ^ lo) ||| BitVec.ofNat n (f'.toNat * 2 ^ lo') := by
  rw [putBits_eq_or (putBits r lo f), putBits_eq_or_shiftLeft, BitVec.and_or_distrib_right,
    field_and_not_fieldMask f h, BitVec.and_assoc, shiftLeft_field_eq_ofNat]

theorem putBits_zero (r : BitVec n) (lo len : Nat) : putBits r lo 0#len = r &&& ~~~fieldMask n lo len := by
  rw [putBits_eq_or, BitVec.toNat_ofNat, Nat.zero_mod, Nat.zero_mul, BitVec.or_zero]

/-- The bits kept and the field written do not meet, so the write is a sum. -/
theorem putBits_eq_add (r : BitVec n) (lo : Nat) (f : BitVec len) :
    putBits r lo f = (r &&& ~~~fieldMask n lo len) + BitVec.ofNat n (f.toNat * 2 ^ lo) := by
  have hdisjoint : (r &&& ~~~fieldMask n lo len) &&& f.setWidth n <<< lo = 0#n := by
    rw [BitVec.and_assoc, not_fieldMask_and_field, BitVec.and_zero]
  rw [putBits_eq_or_shiftLeft, ← BitVec.add_eq_or_of_and_eq_zero _ _ hdisjoint, shiftLeft_field_eq_ofNat]

theorem putBits_field_self (r : BitVec n) (lo len : Nat) : putBits r lo (r.extractLsb' lo len) = r := by
  apply BitVec.eq_of_getLsbD_eq
  intro i hi
  rw [getLsbD_putBits]
  split_ifs with h
  · obtain ⟨hlo, hlen, -⟩ := h
    rw [BitVec.getLsbD_extractLsb', Nat.add_sub_cancel' hlo, decide_eq_true (by omega), Bool.true_and]
  · rfl

/-- A field counted up below its last value is the whole value counted up by the field's unit. -/
theorem putBits_field_succ {r : BitVec n} (h : r.toNat / 2 ^ lo % 2 ^ len + 1 < 2 ^ len) :
    putBits r lo (r.extractLsb' lo len + 1#len) = r + BitVec.ofNat n (2 ^ lo) := by
  have hsucc : (r.extractLsb' lo len + 1#len).toNat = (r.extractLsb' lo len).toNat + 1 := by
    rw [BitVec.toNat_add, BitVec.toNat_ofNat, Nat.add_mod_mod, toNat_field, Nat.mod_eq_of_lt h]
  calc putBits r lo (r.extractLsb' lo len + 1#len)
      = putBits r lo (r.extractLsb' lo len) + BitVec.ofNat n (2 ^ lo) := by
        rw [putBits_eq_add, putBits_eq_add, hsucc, Nat.add_one_mul, BitVec.ofNat_add, BitVec.add_assoc]
    _ = r + BitVec.ofNat n (2 ^ lo) := by rw [putBits_field_self]

theorem putBit_not {i : Nat} (hi : i < n) (r : BitVec n) : putBit r i (!r.getLsbD i) = r ^^^ 1#n <<< i := by
  apply BitVec.eq_of_getLsbD_eq
  intro j hj
  rw [getLsbD_putBit _ _ _ _ hi, BitVec.getLsbD_xor, ← BitVec.twoPow_eq, BitVec.getLsbD_twoPow]
  by_cases h : j = i
  · simp [h, hi]
  · simp [h, Ne.symm h]

end Fields

/-! ### The loopy register operations -/

section LoopyOps

variable {r : Loopy}

theorem incX_of_column_ne (h : r.toNat % 32 ≠ 31) : incX r = BitVec.ofNat 15 (r.toNat + 1) := by
  have hcolumn : r.extractLsb' 0 5 ≠ 31#5 := by
    rw [Ne, field_eq_iff]
    simpa using h
  rw [incX, if_neg hcolumn, putBits_field_succ (by omega), BitVec.ofNat_add, BitVec.ofNat_toNat, BitVec.setWidth_eq]
  rfl

/-- The last column: back to column 0 in the other horizontal nametable (R310). -/
theorem incX_of_column_eq (h : r.toNat % 32 = 31) : incX r = (r &&& 0x7FE0#15) ^^^ 0x0400#15 := by
  have hcolumn : r.extractLsb' 0 5 = 31#5 := by
    rw [field_eq_iff]
    simpa using h
  have hbit : r.getLsbD 10 = (putBits r 0 0#5).getLsbD 10 := by
    rw [getLsbD_putBits]
    rfl
  rw [incX, if_pos hcolumn, hbit, putBit_not (by decide), putBits_zero]
  rfl

theorem fineY_lt_iff (r : Loopy) : (r.extractLsb' 12 3).toNat < 7 ↔ r.toNat < 0x7000 := by
  rw [toNat_field]
  omega

theorem row_eq_iff (r : Loopy) (row : BitVec 5) : r.extractLsb' 5 5 = row ↔ r.toNat / 32 % 32 = row.toNat :=
  field_eq_iff r 5 row

theorem incY_of_fineY_lt (h : r.toNat < 0x7000) : incY r = BitVec.ofNat 15 (r.toNat + 0x1000) := by
  rw [incY, if_pos ((fineY_lt_iff r).2 h), putBits_field_succ (by omega), BitVec.ofNat_add, BitVec.ofNat_toNat,
    BitVec.setWidth_eq]
  rfl

/-- The last row of a nametable: back to row 0 in the other vertical nametable (R311). -/
theorem incY_of_row_29 (h : 0x7000 ≤ r.toNat) (hrow : r.toNat / 32 % 32 = 29) :
    incY r = (r &&& 0x0C1F#15) ^^^ 0x0800#15 := by
  have hbit : r.getLsbD 11 = (putBits (putBits r 12 0#3) 5 0#5).getLsbD 11 := by
    rw [getLsbD_putBits, getLsbD_putBits]
    rfl
  rw [incY, if_neg (mt (fineY_lt_iff r).1 (by omega)), if_pos ((row_eq_iff r 29#5).2 hrow), hbit,
    putBit_not (by decide), putBits_zero, putBits_zero, BitVec.and_assoc]
  rfl

/-- Row 31 wraps to row 0 without a flip (R311). -/
theorem incY_of_row_31 (h : 0x7000 ≤ r.toNat) (hrow : r.toNat / 32 % 32 = 31) : incY r = r &&& 0x0C1F#15 := by
  have hne : r.extractLsb' 5 5 ≠ 29#5 := mt (row_eq_iff r 29#5).1 (by rw [hrow]; decide)
  rw [incY, if_neg (mt (fineY_lt_iff r).1 (by omega)), if_neg hne, if_pos ((row_eq_iff r 31#5).2 hrow),
    putBits_zero, putBits_zero, BitVec.and_assoc]
  rfl

/-- Any other row counts up with fine Y back at 0 (R311). -/
theorem incY_of_row_ne (h : 0x7000 ≤ r.toNat) (h29 : r.toNat / 32 % 32 ≠ 29) (h31 : r.toNat / 32 % 32 ≠ 31) :
    incY r = BitVec.ofNat 15 (r.toNat % 0x1000 + 32) := by
  have hclear : putBits r 12 0#3 = BitVec.ofNat 15 (r.toNat % 0x1000) := by
    apply BitVec.eq_of_toNat_eq
    rw [putBits_zero, BitVec.toNat_ofNat, Nat.mod_eq_of_lt (by omega)]
    exact Nat.and_two_pow_sub_one_eq_mod r.toNat 12
  have hrow : r.extractLsb' 5 5 = (BitVec.ofNat 15 (r.toNat % 0x1000)).extractLsb' 5 5 := by
    rw [row_eq_iff, toNat_field, BitVec.toNat_ofNat]
    omega
  rw [incY, if_neg (mt (fineY_lt_iff r).1 (by omega)), if_neg (mt (row_eq_iff r 29#5).1 h29),
    if_neg (mt (row_eq_iff r 31#5).1 h31), hclear, hrow, putBits_field_succ (by rw [BitVec.toNat_ofNat]; omega),
    BitVec.ofNat_add]
  rfl

theorem copyX_eq_mask (v t : Loopy) : copyX v t = (v &&& 0x7BE0#15) ||| (t &&& 0x041F#15) := by
  apply BitVec.eq_of_getLsbD_eq
  intro i hi
  rw [copyX, getLsbD_putBits, getLsbD_putBits]
  interval_cases i <;> simp

theorem copyY_eq_mask (v t : Loopy) : copyY v t = (v &&& 0x041F#15) ||| (t &&& 0x7BE0#15) := by
  apply BitVec.eq_of_getLsbD_eq
  intro i hi
  rw [copyY, getLsbD_putBits, getLsbD_putBits]
  interval_cases i <;> simp

end LoopyOps

/-! ### The fields of `t` that the ports write -/

theorem putBits_nametable (t : Loopy) (d : Byte) :
    putBits t 10 (d.extractLsb' 0 2) = (t &&& 0x73FF#15) ||| BitVec.ofNat 15 (d.toNat % 4 * 1024) := by
  rw [putBits_eq_or, toNat_field, pow_zero, Nat.div_one]
  rfl

theorem toNat_upperFive (d : Byte) : (d.extractLsb' 3 5).toNat = d.toNat / 8 := by
  rw [toNat_field]
  omega

theorem putBits_coarseX (t : Loopy) (d : Byte) :
    putBits t 0 (d.extractLsb' 3 5) = (t &&& 0x7FE0#15) ||| BitVec.ofNat 15 (d.toNat / 8) := by
  rw [putBits_eq_or, toNat_upperFive, pow_zero, Nat.mul_one]
  rfl

theorem putBits_fineY_coarseY (t : Loopy) (d : Byte) :
    putBits (putBits t 12 (d.extractLsb' 0 3)) 5 (d.extractLsb' 3 5)
      = (t &&& 0x0C1F#15) ||| BitVec.ofNat 15 (d.toNat % 8 * 4096) ||| BitVec.ofNat 15 (d.toNat / 8 * 32) := by
  rw [putBits_putBits_eq_or _ _ _ (.inl (by decide)), toNat_upperFive, toNat_field, pow_zero, Nat.div_one]
  rfl

theorem putBits_addrHigh (t : Loopy) (d : Byte) :
    putBit (putBits t 8 (d.extractLsb' 0 6)) 14 false
      = (t &&& 0x00FF#15) ||| BitVec.ofNat 15 (d.toNat % 64 * 256) := by
  rw [putBit, putBits_putBits_eq_or _ _ _ (.inr (by decide)), toNat_field, pow_zero, Nat.div_one]
  exact BitVec.or_zero

theorem putBits_addrLow (t : Loopy) (d : Byte) :
    putBits t 0 d = (t &&& 0x7F00#15) ||| BitVec.ofNat 15 d.toNat := by
  rw [putBits_eq_or, pow_zero, Nat.mul_one]
  rfl

/-! ### The data port -/

theorem toNat_vramAddr (p : Ppu) : p.vramAddr.toNat = p.v.toNat % 0x4000 := BitVec.toNat_setWidth 14 p.v

theorem vramAddr_eq_ofNat (p : Ppu) : p.vramAddr = BitVec.ofNat 14 (p.v.toNat % 0x4000) := by
  apply BitVec.eq_of_toNat_eq
  rw [toNat_vramAddr, BitVec.toNat_ofNat, Nat.mod_mod]

theorem add_vramInc_eq_ofNat (p : Ppu) :
    p.v + p.vramInc = BitVec.ofNat 15 (p.v.toNat + if p.ctrl.getLsbD 2 then 32 else 1) := by
  rw [BitVec.ofNat_add, BitVec.ofNat_toNat, BitVec.setWidth_eq, Ppu.vramInc]
  cases p.ctrl.getLsbD 2 <;> rfl

/-- A palette read refills the buffer from the nametable beneath, at the address $1000 below (R308). -/
theorem vramAddr_sub_eq_ofNat {p : Ppu} (h : 0x3F00 ≤ p.v.toNat % 0x4000) :
    p.vramAddr - 0x1000#14 = BitVec.ofNat 14 (p.v.toNat % 0x4000 - 0x1000) := by
  rw [vramAddr_eq_ofNat]
  bv_omega

theorem vramRead_buffered {p : Ppu} (h : p.v.toNat % 0x4000 < 0x3F00) (c : Cartridge) :
    vramRead p c = (p.rdbuf, { p with rdbuf := ppuRead p c p.vramAddr, v := p.v + p.vramInc }) := by
  rw [← toNat_vramAddr] at h
  exact if_pos h

theorem vramRead_palette {p : Ppu} (h : 0x3F00 ≤ p.v.toNat % 0x4000) (c : Cartridge) :
    vramRead p c = (ppuRead p c p.vramAddr,
      { p with rdbuf := ppuRead p c (p.vramAddr - 0x1000#14), v := p.v + p.vramInc }) := by
  rw [← toNat_vramAddr] at h
  exact if_neg (by omega)

theorem portRead_data (s : State) :
    portRead .data s = ((vramRead s.ppu s.cart).1, s.setPpu (vramRead s.ppu s.cart).2) := rfl

/-! ### The status port -/

theorem getLsbD_statusByte (p : Ppu) (draw : Byte) (j : Nat) :
    (statusByte p draw).getLsbD j
      = if j = 5 then p.overflow else if j = 6 then p.spr0hit else if j = 7 then p.vblank else draw.getLsbD j := by
  rw [statusByte, getLsbD_putBit _ _ _ _ (by decide), getLsbD_putBit _ _ _ _ (by decide),
    getLsbD_putBit _ _ _ _ (by decide)]

end Sys2Proof.Machine

open Sys2Proof Sys2Proof.Machine

/-- Settles O37: each branch of the toggle writes the fields of `t` that its rule names. -/
theorem scrollAndAddressWrites : Obligations.ScrollAndAddressWrites := by
  unfold Obligations.ScrollAndAddressWrites
  intro d p c
  refine ⟨fun hw => ⟨?_, ?_⟩, fun hw => ⟨?_, ?_⟩⟩ <;> rw [portWrite, hw]
  · rw [putBits_coarseX]
    rfl
  · rw [putBits_addrHigh]
    rfl
  · rw [putBits_fineY_coarseY]
    rfl
  · rw [putBits_addrLow]
    rfl

/-- Settles O38: the two cases of a read, and the one write, at the address and with the step of `v` as numbers. -/
theorem vramDataPort : Obligations.VramDataPort := by
  unfold Obligations.VramDataPort
  intro d s p a v
  have hv : p.v + p.vramInc = v := add_vramInc_eq_ofNat p
  have ha : p.vramAddr = BitVec.ofNat 14 a := vramAddr_eq_ofNat p
  refine ⟨fun h => ?_, fun h => ?_, ?_⟩
  · rw [portRead_data, vramRead_buffered h, hv, ha]
    rfl
  · rw [portRead_data, vramRead_palette h, vramAddr_sub_eq_ofNat h, hv, ha]
    rfl
  · rw [portWrite, hv, ha]

/-- Settles O42: one law for each clause. -/
theorem loopyRegisterOperations : Obligations.LoopyRegisterOperations := by
  unfold Obligations.LoopyRegisterOperations
  intro r t cy
  exact ⟨incX_of_column_ne, incX_of_column_eq, incY_of_fineY_lt, incY_of_row_29, incY_of_row_31, incY_of_row_ne,
    copyX_eq_mask r t, copyY_eq_mask r t⟩

/-- Settles O35: each port by its equation; a write-only port reads as a draw. -/
theorem controlAndObjectPorts : Obligations.ControlAndObjectPorts := by
  unfold Obligations.ControlAndObjectPorts
  intro d s p
  refine ⟨?_, rfl, rfl, rfl, ?_, rfl, ?_⟩
  · rw [portWrite, putBits_nametable]
  · rw [portWrite, add_one_eq_ofNat]
  · rintro r (rfl | rfl | rfl | rfl | rfl) <;> exact ⟨_, _, rfl⟩

/-- Settles O36: the bits of the status byte, whatever the bits drawn beneath them. -/
theorem statusReadClearsVblankAndToggle : Obligations.StatusReadClearsVblankAndToggle := by
  unfold Obligations.StatusReadClearsVblankAndToggle
  intro s
  exact ⟨_, _, rfl, getLsbD_statusByte _ _ 7, getLsbD_statusByte _ _ 6, getLsbD_statusByte _ _ 5⟩

end

section
/-! PROOF. The PPU's frame (O43 to O49) (46_ppu_frame R331 to R349): the position and the events of a tick, object
evaluation, the pixels of the two layers with their addresses as numbers, and the line that dot 256 renders. -/

namespace Sys2Proof.Machine

open Sys2Proof.Claims

/-! ### A tick by its events and its position -/

theorem ppuEvents_position (c : Cartridge) (p : Ppu) :
    (ppuEvents c p).dot = p.dot ∧ (ppuEvents c p).scanline = p.scanline ∧ (ppuEvents c p).odd = p.odd := by
  rw [ppuEvents_frame]
  exact ⟨rfl, rfl, rfl⟩

/-- A tick within a line: the events, the next dot, and the NMI request of VBlank start (R331, R348). -/
theorem tick_inLine {s : State} (h : s.ppu.dot + 1 ≠ 341) :
    (tick s).1 = { s with
        ppu := { ppuEvents s.cart s.ppu with dot := s.ppu.dot + 1 }
        cpu := { s.cpu with nmiPending := s.cpu.nmiPending
          || (decide (s.ppu.scanline = 241 ∧ s.ppu.dot = 1) && s.ppu.ctrl.getLsbD 7) } }
      ∧ (tick s).2 = false := by
  obtain ⟨hdot, -, -⟩ := ppuEvents_position s.cart s.ppu
  have hadvance := advancePosition_inLine (p := ppuEvents s.cart s.ppu) (hdot ▸ h)
  have hmore : (tick s).2 = false := by rw [tick_frameComplete, hadvance]
  refine ⟨?_, hmore⟩
  rw [tick_frame, tick_ppu, tick_nmiPending, hmore, handOver_false, hadvance, hdot]

/-- A tick within a line that is not VBlank start changes the PPU alone (R404). -/
theorem tick_inLine_quiet {s : State} (h : s.ppu.dot + 1 ≠ 341) (hv : ¬ (s.ppu.scanline = 241 ∧ s.ppu.dot = 1)) :
    (tick s).1 = { s with ppu := { ppuEvents s.cart s.ppu with dot := s.ppu.dot + 1 } } := by
  rw [(tick_inLine h).1, decide_eq_false hv, Bool.false_and, Bool.or_false]

/-- The number of the position in its frame (R332). -/
def Ppu.position (p : Ppu) : Nat := p.scanline * 341 + p.dot

/-- A tick that leaves the frame unfinished moves to the next position, of the next line where the line ends (R331). -/
theorem tick_position {s : State} (hd : s.ppu.dot ≤ 340) (h : s.ppu.position + 1 < 89342) :
    (tick s).2 = false ∧ (tick s).1.ppu.position = s.ppu.position + 1 ∧ (tick s).1.ppu.dot ≤ 340
      ∧ (tick s).1.ppu.odd = s.ppu.odd := by
  obtain ⟨hdot, hline, hodd⟩ := ppuEvents_position s.cart s.ppu
  unfold Ppu.position at *
  by_cases hend : s.ppu.dot + 1 = 341
  · have hadvance := advancePosition_lineEnd (p := ppuEvents s.cart s.ppu) (hdot ▸ hend) (by omega)
    have hmore : (tick s).2 = false := by rw [tick_frameComplete, hadvance]
    rw [hmore, tick_ppu, hmore, hadvance]
    have hnext : ((ppuEvents s.cart s.ppu).scanline + 1) * 341 + 0 = s.ppu.scanline * 341 + s.ppu.dot + 1 := by omega
    exact ⟨rfl, hnext, Nat.zero_le _, hodd⟩
  · obtain ⟨htick, hmore⟩ := tick_inLine hend
    rw [hmore, htick]
    have hnext : (ppuEvents s.cart s.ppu).scanline * 341 + (s.ppu.dot + 1) = s.ppu.scanline * 341 + s.ppu.dot + 1 := by
      rw [hline, Nat.add_assoc]
    exact ⟨rfl, hnext, show s.ppu.dot + 1 ≤ 340 by omega, hodd⟩

/-- The tick at the last position completes the frame; the parity toggles and an odd frame starts at dot 1 (R331, R333). -/
theorem tick_lastPosition {s : State} (hd : s.ppu.dot ≤ 340) (h : s.ppu.position + 1 = 89342) :
    (tick s).2 = true ∧ (tick s).1.ppu.scanline = 0 ∧ (tick s).1.ppu.dot = (if s.ppu.odd then 0 else 1)
      ∧ (tick s).1.ppu.odd = !s.ppu.odd := by
  obtain ⟨hdot, hline, hodd⟩ := ppuEvents_position s.cart s.ppu
  unfold Ppu.position at h
  have hadvance := advancePosition_frameEnd (p := ppuEvents s.cart s.ppu) (by omega) (by omega)
  have hdone : (tick s).2 = true := by rw [tick_frameComplete, hadvance]
  rw [hdone, tick_ppu, hdone, hadvance, hodd]
  cases s.ppu.odd <;> exact ⟨rfl, rfl, rfl, rfl⟩

/-- Ticks that stay in the frame move the position by their number (R331). -/
theorem ppuStep_position (n : Nat) {s : State} (hd : s.ppu.dot ≤ 340) (h : s.ppu.position + n < 89342) :
    (ppuStep n s).2 = false ∧ (ppuStep n s).1.ppu.position = s.ppu.position + n ∧ (ppuStep n s).1.ppu.dot ≤ 340
      ∧ (ppuStep n s).1.ppu.odd = s.ppu.odd := by
  induction n generalizing s with
  | zero => exact ⟨rfl, (Nat.add_zero _).symm, hd, rfl⟩
  | succ n ih =>
    obtain ⟨hmore, hpos, hd', hodd⟩ := tick_position hd (by omega)
    obtain ⟨ihmore, ihpos, ihd, ihodd⟩ := ih hd' (by omega)
    rw [ppuStep_succ, hmore, ihmore]
    exact ⟨rfl, by rw [ihpos, hpos]; omega, ihd, ihodd.trans hodd⟩

/-- One more tick, seen from the last of them. -/
theorem ppuStep_succ_last (n : Nat) (s : State) :
    ppuStep (n + 1) s = ((tick (ppuStep n s).1).1, (ppuStep n s).2 || (tick (ppuStep n s).1).2) := by
  induction n generalizing s with
  | zero => rw [ppuStep_succ]; simp [ppuStep]
  | succ n ih => rw [ppuStep_succ, ih, ppuStep_succ, Bool.or_assoc]

/-! ### The events of each position -/

section Events

variable {p : Ppu} (c : Cartridge)

theorem ppuEvents_line (hl : p.scanline < 240) (hd : p.dot = 256) : ppuEvents c p = lineEvent p.scanline c p := by
  unfold ppuEvents
  rw [if_pos ⟨hl, hd⟩]

theorem ppuEvents_copyX (hl : p.scanline < 240 ∨ p.scanline = 261) (hd : p.dot = 257) :
    ppuEvents c p = { p with v := if p.rendering then copyX p.v p.t else p.v } := by
  unfold ppuEvents
  rw [if_neg (by omega), if_pos ⟨hl, hd⟩]
  split <;> rfl

theorem ppuEvents_vblankStart (hl : p.scanline = 241) (hd : p.dot = 1) :
    ppuEvents c p = { p with vblank := true } := by
  unfold ppuEvents
  rw [if_neg (by omega), if_neg (by omega), if_pos ⟨hl, hd⟩]

theorem ppuEvents_preRenderClear (hl : p.scanline = 261) (hd : p.dot = 1) :
    ppuEvents c p = { p with vblank := false, spr0hit := false, overflow := false } := by
  unfold ppuEvents
  rw [if_neg (by omega), if_neg (by omega), if_neg (by omega), if_pos ⟨hl, hd⟩]

theorem ppuEvents_copyY (hl : p.scanline = 261) (hd : 280 ≤ p.dot) (hd' : p.dot ≤ 304) :
    ppuEvents c p = { p with v := if p.rendering then copyY p.v p.t else p.v } := by
  unfold ppuEvents
  rw [if_neg (by omega), if_neg (by omega), if_neg (by omega), if_neg (by omega), if_pos ⟨hl, hd, hd'⟩]
  split <;> rfl

/-- Any other position has no event (R335). -/
theorem ppuEvents_none (hline : ¬ (p.scanline < 240 ∧ p.dot = 256))
    (hcopyX : ¬ ((p.scanline < 240 ∨ p.scanline = 261) ∧ p.dot = 257))
    (hvblank : ¬ (p.scanline = 241 ∧ p.dot = 1)) (hclear : ¬ (p.scanline = 261 ∧ p.dot = 1))
    (hcopyY : ¬ (p.scanline = 261 ∧ 280 ≤ p.dot ∧ p.dot ≤ 304)) : ppuEvents c p = p := by
  unfold ppuEvents
  rw [if_neg hline, if_neg hcopyX, if_neg hvblank, if_neg hclear, if_neg hcopyY]

end Events

/-- A tick with no event changes the position, the parity and, where it completes a frame, the two buffers (R331, R345). -/
theorem tick_noEvent {s : State} (h : ppuEvents s.cart s.ppu = s.ppu)
    (hv : ¬ (s.ppu.scanline = 241 ∧ s.ppu.dot = 1)) :
    (tick s).1 = { s with ppu := { s.ppu with
        dot := (tick s).1.ppu.dot, scanline := (tick s).1.ppu.scanline, odd := (tick s).1.ppu.odd
        fb := (tick s).1.ppu.fb, frame := (tick s).1.ppu.frame } }
      ∧ ((tick s).2 = false → (tick s).1.ppu.fb = s.ppu.fb ∧ (tick s).1.ppu.frame = s.ppu.frame) := by
  have hppu : (tick s).1.ppu = handOver (tick s).2 (advancePosition s.ppu).1 := by rw [tick_ppu, h]
  have hnmi : (tick s).1.cpu.nmiPending = s.cpu.nmiPending := by
    rw [tick_nmiPending, decide_eq_false hv, Bool.false_and, Bool.or_false]
  constructor
  · rw [tick_frame, hnmi, hppu, handOver_frame, advancePosition_frame]
  · intro hmore
    rw [hppu, hmore, handOver_false, advancePosition_frame]
    exact ⟨rfl, rfl⟩

/-! ### Object evaluation -/

theorem covers_eq_coversLine (p : Ppu) (line n : Nat) : p.covers line n = coversLine p line n := by
  unfold Ppu.covers coversLine Ppu.objectRow Ppu.objectHeight sprYOfs
  rw [Bool.eq_iff_iff]
  simp only [Bool.and_eq_true, decide_eq_true_eq]
  split <;> omega

/-- The loop fills the buffer up to 8 with the objects left that cover the line; more of them set overflow (R340). -/
theorem evaluateLoop_eq (p : Ppu) (line : Nat) (ns : List Nat) {sec : List Nat} (h : sec.length ≤ 8) :
    evaluateLoop p line ns sec = ((sec ++ ns.filter (coversLine p line)).take 8,
      p.overflow || decide (8 < (sec ++ ns.filter (coversLine p line)).length)) := by
  induction ns generalizing sec with
  | nil => simp [evaluateLoop, List.take_of_length_le h, Nat.not_lt.mpr h]
  | cons n ns ih =>
    unfold evaluateLoop
    rw [covers_eq_coversLine, List.filter_cons]
    by_cases hn : coversLine p line n = true
    · rw [if_pos hn, if_pos hn]
      by_cases hlen : sec.length < 8
      · rw [if_pos hlen, ih (by simpa using hlen), ← List.append_cons]
      · have hfull : sec.length = 8 := by omega
        rw [if_neg hlen, ← hfull, List.take_left]
        simp
    · rw [if_neg hn, if_neg hn, ih h]

/-- The evaluation of a line touches the object buffer and the overflow flag only (R340). -/
theorem evaluateObjects_eq (line : Nat) (p : Ppu) :
    evaluateObjects line p = { p with
      sec := ((List.range 64).filter (coversLine p line)).take 8
      overflow := p.overflow || decide (8 < ((List.range 64).filter (coversLine p line)).length) } := by
  rw [evaluateObjects, evaluateLoop_eq p line _ (sec := []) (Nat.zero_le 8), List.nil_append]

/-! ### The addresses and the planes of a pixel -/

theorem bitNat_eq_toNat (b : Bool) : bitNat b = b.toNat := by
  cases b <;> rfl

theorem walkX_eq_iterate (k : Nat) (r : Loopy) : walkX k r = incX^[k] r := by
  induction k generalizing r with
  | zero => rfl
  | succ k ih => exact ih (incX r)

theorem planePixel_ofNat (p : Ppu) (c : Cartridge) (addr b : Nat) :
    planePixel p c (BitVec.ofNat 14 addr) b = planes p c addr b := by
  rw [planePixel, planes, BitVec.ofNat_add, bitNat_eq_toNat, bitNat_eq_toNat]

theorem tableBase_eq_ofNat (high : Bool) : tableBase high = BitVec.ofNat 14 (if high then 4096 else 0) := by
  cases high <;> rfl

/-- The pattern address of a tile's row in its table (R341, R342). -/
theorem patternAddr_eq_ofNat (high : Bool) (tile : Byte) (row : Nat) :
    tableBase high + (tile.setWidth 14 <<< 4) + BitVec.ofNat 14 row
      = BitVec.ofNat 14 ((if high then 4096 else 0) + 16 * tile.toNat + row) := by
  rw [tableBase_eq_ofNat, shiftLeft_field_eq_ofNat, BitVec.ofNat_add, BitVec.ofNat_add, Nat.mul_comm]
  rfl

theorem setWidth_field_eq_ofNat (r : Loopy) (lo len : Nat) :
    (r.extractLsb' lo len).setWidth 14 = BitVec.ofNat 14 (r.toNat / 2 ^ lo % 2 ^ len) := by
  rw [← toNat_field, BitVec.ofNat_toNat]

/-- Parts of an address with no bit in common are joined by a sum. -/
theorem or_eq_add_of_disjoint {a b : PpuAddr} (h : ∀ i < 14, (a.getLsbD i && b.getLsbD i) = false) :
    a ||| b = a + b := by
  refine (BitVec.add_eq_or_of_and_eq_zero a b (BitVec.eq_of_getLsbD_eq fun i hi => ?_)).symm
  rw [BitVec.getLsbD_and, h i hi, BitVec.getLsbD_zero]

theorem nametableAddr_eq_ofNat (r : Loopy) :
    0x2000#14 ||| (r.extractLsb' 0 12).setWidth 14 = BitVec.ofNat 14 (0x2000 + r.toNat % 4096) := by
  rw [or_eq_add_of_disjoint, setWidth_field_eq_ofNat, BitVec.ofNat_add, pow_zero, Nat.div_one]
  · rfl
  · intro i hi
    interval_cases i <;> simp

theorem attributeAddr_eq_ofNat (r : Loopy) :
    0x23C0#14 ||| ((r.extractLsb' 10 2).setWidth 14 <<< 10) ||| ((r.extractLsb' 7 3).setWidth 14 <<< 3)
        ||| (r.extractLsb' 2 3).setWidth 14
      = BitVec.ofNat 14 (0x23C0 + 1024 * (r.toNat / 1024 % 4) + 8 * (r.toNat / 128 % 8) + r.toNat / 4 % 8) := by
  rw [or_eq_add_of_disjoint, or_eq_add_of_disjoint, or_eq_add_of_disjoint, shiftLeft_field_eq_ofNat,
    shiftLeft_field_eq_ofNat, setWidth_field_eq_ofNat, toNat_field, toNat_field]
  · simp only [BitVec.ofNat_add, Nat.mul_comm]
    rfl
  all_goals
    intro i hi
    interval_cases i <;> simp

theorem bitNat_getLsbD {n : Nat} (r : BitVec n) (i : Nat) : bitNat (r.getLsbD i) = r.toNat / 2 ^ i % 2 :=
  (bitNat_eq_toNat _).trans (Nat.toNat_testBit r.toNat i)

theorem fineY_eq_ofNat (v : Loopy) : (v.extractLsb' 12 3).setWidth 14 = BitVec.ofNat 14 (v.toNat / 4096) := by
  have hv : v.toNat / 2 ^ 12 < 2 ^ 3 := by omega
  rw [setWidth_field_eq_ofNat, Nat.mod_eq_of_lt hv]
  rfl

/-- A background pixel of value `pix` in column `x` is opaque: not 0, its layer on, its column not clipped (R341). -/
def bgOpaque (p : Ppu) (x pix : Nat) : Bool :=
  pix != 0 && p.mask.getLsbD 3 && (decide (8 ≤ x) || p.mask.getLsbD 1)

theorem bgOpaque_iff {p : Ppu} {x pix : Nat} :
    bgOpaque p x pix = true ↔ pix ≠ 0 ∧ p.mask.getLsbD 3 = true ∧ (8 ≤ x ∨ p.mask.getLsbD 1 = true) := by
  simp [bgOpaque, and_assoc]

/-! ### The pixel of an object -/

section ObjectPattern

variable {p : Ppu}

theorem objectHeight_of_short (h : p.ctrl.getLsbD 5 = false) : p.objectHeight = 8 := by
  rw [Ppu.objectHeight, h]
  rfl

theorem objectHeight_of_tall (h : p.ctrl.getLsbD 5 = true) : p.objectHeight = 16 := by
  rw [Ppu.objectHeight, h]
  rfl

/-- The row of an object as a natural number, 0 above the object (log 18). -/
theorem toNat_objectRow (p : Ppu) (line n : Nat) :
    (p.objectRow line n).toNat = line - ((p.oam.read (4 * n)).toNat + 1) := by
  unfold Ppu.objectRow sprYOfs
  omega

theorem toNat_evenTile (tile : Byte) : (tile &&& 0xFE#8).toNat = tile.toNat / 2 * 2 := by
  have hshift : tile &&& 0xFE#8 = (tile >>> 1) <<< 1 := by
    apply byte_ext
    intro i hi
    interval_cases i <;> simp
  have hlt := tile.isLt
  rw [hshift, BitVec.toNat_shiftLeft, BitVec.toNat_ushiftRight, Nat.shiftLeft_eq, Nat.shiftRight_eq_div_pow]
  omega

theorem toNat_oddTile (tile : Byte) : ((tile &&& 0xFE#8) + 1#8).toNat = tile.toNat / 2 * 2 + 1 := by
  have hlt := tile.isLt
  have hsum : tile.toNat / 2 * 2 + 1 < 2 ^ 8 := by omega
  rw [BitVec.toNat_add, toNat_evenTile]
  exact Nat.mod_eq_of_lt hsum

theorem objectPattern_of_short (h : p.ctrl.getLsbD 5 = false) (tile : Byte) (row : Nat) :
    objectPattern p tile row
      = BitVec.ofNat 14 ((if p.ctrl.getLsbD 3 then 4096 else 0) + 16 * tile.toNat + row) := by
  rw [objectPattern, if_pos (objectHeight_of_short h), patternAddr_eq_ofNat]

/-- A tall object's even tile holds its upper 8 rows, the next tile its lower 8 (R342). -/
theorem objectPattern_of_tall (h : p.ctrl.getLsbD 5 = true) (tile : Byte) {row : Nat} (hrow : row < 16) :
    objectPattern p tile row
      = BitVec.ofNat 14 ((if tile.toNat % 2 = 1 then 4096 else 0) + 16 * (tile.toNat / 2 * 2 + row / 8) + row % 8) := by
  have htable : (if tile.getLsbD 0 then 4096 else 0) = if tile.toNat % 2 = 1 then 4096 else 0 := by
    simp only [getLsbD_zero_eq_decide, decide_eq_true_eq]
  rw [objectPattern, if_neg (by rw [objectHeight_of_tall h]; decide), patternAddr_eq_ofNat, htable]
  by_cases hlow : 8 ≤ row
  · have hdiv : row / 8 = 1 := by omega
    have hmod : row % 8 = row - 8 := by omega
    rw [if_pos hlow, if_pos hlow, toNat_oddTile, hdiv, hmod]
  · have hdiv : row / 8 = 0 := by omega
    have hmod : row % 8 = row := by omega
    rw [if_neg hlow, if_neg hlow, toNat_evenTile, hdiv, hmod]
    rfl

end ObjectPattern

/-- An object that covers the line shows its pixel where that is not 0 (R342). -/
theorem objectPixelOf_eq {p : Ppu} {line n : Nat} (hcover : coversLine p line n = true) (c : Cartridge) (x : Nat) :
    objectPixelOf p c line x n =
      if objectShows p c line x n = 0 then none
      else some ⟨16 + 4 * ((p.oam.read (4 * n + 2)).toNat % 4) + objectShows p c line x n,
        (p.oam.read (4 * n + 2)).getLsbD 5, n⟩ := by
  rw [coversLine, Bool.and_eq_true, decide_eq_true_eq, decide_eq_true_eq] at hcover
  unfold objectPixelOf objectShows
  by_cases hreach : (p.oam.read (4 * n + 3)).toNat ≤ x ∧ x < (p.oam.read (4 * n + 3)).toNat + 8
  · simp only [if_pos hreach, toNat_objectRow]
    cases htall : p.ctrl.getLsbD 5 with
    | false =>
      simp only [objectPattern_of_short htall, objectHeight_of_short htall, planePixel_ofNat,
        if_false, Bool.false_eq_true]
    | true =>
      rw [htall, if_pos rfl] at hcover
      rw [objectPattern_of_tall htall, planePixel_ofNat, objectHeight_of_tall htall]
      · rfl
      · rw [objectHeight_of_tall htall]
        split <;> omega
  · simp only [if_neg hreach, if_true]

/-- Objects are shown in a column: their layer is on and the column is not clipped (R343). -/
theorem objectPixel_of_shown {p : Ppu} {x : Nat} (h : p.mask.getLsbD 4 = true ∧ (8 ≤ x ∨ p.mask.getLsbD 2 = true))
    (c : Cartridge) (line : Nat) : objectPixel p c line x = p.sec.findSome? (objectPixelOf p c line x) := by
  unfold objectPixel
  rw [if_pos (by simpa using h)]

theorem objectPixel_of_not_shown {p : Ppu} {x : Nat}
    (h : ¬ (p.mask.getLsbD 4 = true ∧ (8 ≤ x ∨ p.mask.getLsbD 2 = true))) (c : Cartridge) (line : Nat) :
    objectPixel p c line x = none := by
  unfold objectPixel
  rw [if_neg (by simpa using h)]

theorem findSome?_objectPixelOf_eq_none {p : Ppu} {c : Cartridge} {line x : Nat} {sec : List Nat}
    (hcover : ∀ m ∈ sec, coversLine p line m = true) (h : ∀ m ∈ sec, objectShows p c line x m = 0) :
    sec.findSome? (objectPixelOf p c line x) = none := by
  rw [List.findSome?_eq_none_iff]
  intro m hm
  rw [objectPixelOf_eq (hcover m hm), if_pos (h m hm)]

/-- The first object of the buffer that shows a pixel in the column is the one the column shows (R342). -/
theorem findSome?_objectPixelOf_of_first {p : Ppu} {c : Cartridge} {line x n : Nat} {before after : List Nat}
    (hcover : ∀ m ∈ before ++ n :: after, coversLine p line m = true)
    (hbefore : ∀ m ∈ before, objectShows p c line x m = 0) (hn : objectShows p c line x n ≠ 0) :
    (before ++ n :: after).findSome? (objectPixelOf p c line x) = some
      ⟨16 + 4 * ((p.oam.read (4 * n + 2)).toNat % 4) + objectShows p c line x n,
        (p.oam.read (4 * n + 2)).getLsbD 5, n⟩ := by
  obtain ⟨hcoverBefore, hcoverN, -⟩ := List.forall_mem_append.mp hcover |>.imp_right List.forall_mem_cons.mp
  rw [List.findSome?_append, findSome?_objectPixelOf_eq_none hcoverBefore hbefore, Option.none_or,
    List.findSome?_cons, objectPixelOf_eq hcoverN, if_neg hn]

/-! ### Hidden layers -/

theorem not_shown_of_hidden {layer unclipped : Bool} {x : Nat} (h : layer = false ∨ x < 8 ∧ unclipped = false) :
    ¬ (layer = true ∧ (8 ≤ x ∨ unclipped = true)) := by
  rintro ⟨rfl, hcolumn⟩
  obtain hoff | ⟨hleft, rfl⟩ := h
  · exact Bool.false_ne_true hoff.symm
  · exact hcolumn.elim (Nat.not_le.mpr hleft) Bool.false_ne_true

theorem bgPixel_of_hidden {p : Ppu} {x : Nat} (h : p.mask.getLsbD 3 = false ∨ x < 8 ∧ p.mask.getLsbD 1 = false)
    (c : Cartridge) : bgPixel p c x = ⟨false, 0⟩ := by
  obtain ⟨pix, index, hpixel⟩ : ∃ pix index : Nat,
      bgPixel p c x = ⟨bgOpaque p x pix, if bgOpaque p x pix then index else 0⟩ := ⟨_, _, rfl⟩
  have htransparent : bgOpaque p x pix = false :=
    Bool.eq_false_iff.mpr fun hopaque => not_shown_of_hidden h (bgOpaque_iff.mp hopaque).2
  rw [hpixel, htransparent]
  rfl

theorem objectPixel_of_hidden {p : Ppu} {x : Nat} (h : p.mask.getLsbD 4 = false ∨ x < 8 ∧ p.mask.getLsbD 2 = false)
    (c : Cartridge) (line : Nat) : objectPixel p c line x = none :=
  objectPixel_of_not_shown (not_shown_of_hidden h) c line

/-! ### The line of the frame buffer -/

theorem pixelAt_colour (p : Ppu) (c : Cartridge) (line x : Nat) :
    (pixelAt p c line x).colour = priorityColour p (bgPixel p c x) (objectPixel p c line x) := by
  unfold pixelAt layerIndex layerBranch priorityColour
  cases hbg : (bgPixel p c x).solid with
  | false => cases objectPixel p c line x <;> simp [hbg]
  | true =>
    cases objectPixel p c line x with
    | none => simp [hbg]
    | some o => cases hb : o.behind <;> simp [hbg, hb]

theorem spriteZeroAt_iff (p : Ppu) (c : Cartridge) (line x : Nat) :
    spriteZeroAt p c line x = true ↔
      (bgPixel p c x).solid = true ∧ ∃ o, objectPixel p c line x = some o ∧ o.number = 0 := by
  unfold spriteZeroAt
  cases objectPixel p c line x <;> simp

/-- The line written is found as written, any other as before. -/
theorem find?_writeLine (fb : List (Nat × List Pixel)) (y z : Nat) (px : List Pixel) :
    (writeLine fb y px).find? (fun l => l.1 == z) = if y = z then some (y, px) else fb.find? (fun l => l.1 == z) := by
  induction fb with
  | nil => by_cases h : y = z <;> simp [writeLine, h]
  | cons l fb ih =>
    obtain ⟨k, q⟩ := l
    unfold writeLine
    by_cases hlt : y < k
    · rw [if_pos hlt]
      by_cases hz : y = z <;> simp [hz]
    · rw [if_neg hlt]
      by_cases heq : y = k
      · rw [if_pos heq, ← heq]
        by_cases hz : y = z <;> simp [hz]
      · rw [if_neg heq]
        by_cases hk : k = z
        · have hz : y ≠ z := hk ▸ heq
          simp [hk, hz]
        · simp [hk, ih]

/-- The entries of a line just written, and those of every other line (R345). -/
theorem pixel_writeLine (p : Ppu) (y : Nat) (px : List Pixel) (z x : Nat) :
    ({ p with fb := writeLine p.fb y px } : Ppu).pixel z x = if z = y then px[x]? else p.pixel z x := by
  unfold Ppu.pixel
  simp only [find?_writeLine]
  by_cases h : y = z
  · rw [if_pos h, if_pos h.symm]
  · rw [if_neg h, if_neg (Ne.symm h)]

/-! ### Dot 256 of a visible line -/

/-- The PPU whose pixels a line shows: its objects evaluated, or none in the buffer with rendering disabled (R335, R340). -/
def Ppu.evaluated (p : Ppu) (line : Nat) : Ppu :=
  if p.rendering then evaluateObjects line p else { p with sec := [] }

/-- Dot 256 renders the line from the evaluated objects and counts `v` up with rendering enabled (R335, R345, R346). -/
theorem lineEvent_eq (line : Nat) (c : Cartridge) (p : Ppu) :
    lineEvent line c p = { p.evaluated line with
      fb := writeLine p.fb line ((List.range 256).map (pixelAt (p.evaluated line) c line))
      spr0hit := (p.evaluated line).spr0hit || (List.range 256).any (spriteZeroAt (p.evaluated line) c line)
      v := if p.rendering then incY p.v else p.v } := by
  unfold lineEvent Ppu.evaluated
  cases p.rendering <;> rfl

/-- An entry of the line written is the pixel the priority rule chooses (R344, R345). -/
theorem pixel_renderedLine (p q : Ppu) (c : Cartridge) (line : Nat) {x : Nat} (hx : x < 256) :
    ({ q with fb := writeLine q.fb line ((List.range 256).map (pixelAt p c line)) } : Ppu).pixel line x
      = some ⟨priorityColour p (bgPixel p c x) (objectPixel p c line x), (pixelAt p c line x).layer⟩ := by
  rw [pixel_writeLine, if_pos rfl, List.getElem?_map, List.getElem?_range hx, ← pixelAt_colour]
  rfl

theorem any_spriteZeroAt_iff (p : Ppu) (c : Cartridge) (line : Nat) :
    (List.range 256).any (spriteZeroAt p c line) = true ↔
      ∃ x < 256, (bgPixel p c x).solid = true ∧ ∃ o, objectPixel p c line x = some o ∧ o.number = 0 := by
  simp only [List.any_eq_true, List.mem_range, spriteZeroAt_iff]

end Sys2Proof.Machine

open Sys2Proof Sys2Proof.Machine

/-- Settles O43: the ticks up to the last position move the position by one each, and the next one completes the frame. -/
theorem ticksWalkTheFrame : Obligations.TicksWalkTheFrame := by
  unfold Obligations.TicksWalkTheFrame
  intro n s hd hs pos r
  refine ⟨ppuStep_position n hd, fun hn => ?_⟩
  have hlast : s.ppu.position + n = 89342 := hn
  obtain ⟨m, rfl⟩ : ∃ m, n = m + 1 := Nat.exists_eq_succ_of_ne_zero (by omega)
  obtain ⟨hmore, hpos, hd', hodd⟩ := ppuStep_position m hd (by omega)
  obtain ⟨hdone, hline, hdot, hpar⟩ := tick_lastPosition hd' (by omega)
  have hr : r = ((tick (ppuStep m s).1).1, true) := by
    rw [← hdone, show r = _ from ppuStep_succ_last m s, hmore, Bool.false_or]
  rw [hr, ← hodd]
  exact ⟨rfl, hline, hdot, hpar⟩

/-- Settles O44: a tick within a line is the event of its position and the next dot; with no event it is the advance. -/
theorem tickEvents : Obligations.TickEvents := by
  unfold Obligations.TickEvents
  intro s _ _
  refine ⟨fun (hl : s.ppu.scanline = 241) (hd : s.ppu.dot = 1) => ?_,
    fun (hl : s.ppu.scanline = 261) (hd : s.ppu.dot = 1) => ?_,
    fun ⟨hl, (hd : s.ppu.dot = 257)⟩ => ?_,
    fun ⟨(hl : s.ppu.scanline = 261), (hd : 280 ≤ s.ppu.dot), (hd' : s.ppu.dot ≤ 304)⟩ => ?_,
    fun hvblank hclear hcopyX hcopyY hline => ?_⟩
  · have hstart : decide (s.ppu.scanline = 241 ∧ s.ppu.dot = 1) = true := decide_eq_true ⟨hl, hd⟩
    rw [(tick_inLine (by omega)).1, ppuEvents_vblankStart _ hl hd, hstart, Bool.true_and, hd]
  · rw [tick_inLine_quiet (by omega) (by omega), ppuEvents_preRenderClear _ hl hd, hd]
  · rw [tick_inLine_quiet (by omega) (by omega), ppuEvents_copyX _ hl hd, hd]
    rfl
  · rw [tick_inLine_quiet (by omega) (by omega), ppuEvents_copyY _ hl hd hd']
    rfl
  · exact ⟨_, _, tick_noEvent (ppuEvents_none _ hline hcopyX hvblank hclear hcopyY) hvblank⟩

/-- Settles O45: the loop over the 64 objects from an empty buffer. -/
theorem objectEvaluation : Obligations.ObjectEvaluation := by
  unfold Obligations.ObjectEvaluation
  intro line p
  exact evaluateObjects_eq line p

/-- Settles O46: the walked address, the palette number and the two planes in arithmetic on naturals. -/
theorem backgroundPixel : Obligations.BackgroundPixel := by
  unfold Obligations.BackgroundPixel
  intro p c x fx r tile attr pb pix shown
  have hpixel : bgPixel p c x = ⟨bgOpaque p x pix, if bgOpaque p x pix then 4 * pb + pix else 0⟩ := by
    unfold bgPixel
    simp only [walkX_eq_iterate, nametableAddr_eq_ofNat, attributeAddr_eq_ofNat, fineY_eq_ofNat, patternAddr_eq_ofNat,
      planePixel_ofNat, bitNat_getLsbD, BitVec.toNat_ushiftRight, Nat.shiftRight_eq_div_pow]
    rfl
  constructor
  · intro (h : shown)
    rw [hpixel, bgOpaque_iff.mpr h]
    rfl
  · intro (h : ¬ shown)
    rw [hpixel, Bool.eq_false_iff.mpr (mt bgOpaque_iff.mp h)]
    rfl

/-- Settles O47: the objects before the first that shows a pixel show none, and with the layer hidden none is looked at. -/
theorem objectPixels : Obligations.ObjectPixels := by
  unfold Obligations.ObjectPixels
  intro p c line x hcover shown
  refine ⟨fun before after n hshown hsec hbefore hn => ?_, fun hnone => ?_, fun hhidden => ?_⟩
  · rw [objectPixel_of_shown hshown, hsec]
    exact findSome?_objectPixelOf_of_first (hsec ▸ hcover) hbefore hn
  · by_cases hshown : shown
    · rw [objectPixel_of_shown hshown, findSome?_objectPixelOf_eq_none hcover hnone]
    · exact objectPixel_of_not_shown hshown c line
  · exact objectPixel_of_not_shown hhidden c line

/-- Settles O48: the tick at dot 256 is the line's event, which writes the line from the evaluated objects. -/
theorem visibleLineIsRendered : Obligations.VisibleLineIsRendered := by
  unfold Obligations.VisibleLineIsRendered
  intro s _ hline hdot line re p c
  refine ⟨writeLine s.ppu.fb line ((List.range 256).map (pixelAt p c line)),
    (List.range 256).any (spriteZeroAt p c line), ?_, fun x hx => ⟨_, pixel_renderedLine p s.ppu c line hx⟩,
    fun y x hy => (pixel_writeLine s.ppu line _ y x).trans (if_neg hy), any_spriteZeroAt_iff p c line⟩
  rw [tick_inLine_quiet (by omega) (by omega), ppuEvents_line _ hline hdot, lineEvent_eq, hdot]
  rfl

/-- Settles O49: the two layers hidden column by column, and the priority rule on two transparent pixels. -/
theorem hiddenPixelsAreTransparent : Obligations.HiddenPixelsAreTransparent := by
  unfold Obligations.HiddenPixelsAreTransparent
  intro p c line x
  refine ⟨fun h => bgPixel_of_hidden h c, fun h => objectPixel_of_hidden h c line, fun hbg hob => ?_⟩
  have hbgPixel : bgPixel p c x = ⟨false, 0⟩ := bgPixel_of_hidden (.inl hbg) c
  constructor
  · rw [pixelAt_colour, hbgPixel, objectPixel_of_hidden (.inl hob)]
    rfl
  · rw [spriteZeroAt, hbgPixel, Bool.false_and]

end

section
/-! PROOF. The NMI entry (O8) (60_exceptions R425): the slot resolved into P, then the entry BRK and NMI share. -/

namespace Sys2Proof.Machine

open Sys2Proof.Claims

/-- P with the pending I resolved into it (R425). -/
def Cpu.resolvedP (c : Cpu) : Byte :=
  match c.pendI with
  | some v => (c.p &&& 0xFB#8) ||| (if v then 0x04#8 else 0x00#8)
  | none => c.p

theorem nmiEntry_eq_enterInterrupt (s : State) :
    nmiEntry s = (enterInterrupt ((s.cpu.resolvedP &&& 0xEF#8) ||| 0x20#8) nmiVector
      (s.setCpu { s.cpu with p := s.cpu.resolvedP, pendI := none, nmiPending := false })).charge 7 := by
  unfold nmiEntry Cpu.resolvedP
  cases s.cpu.pendI with
  | none => rfl
  | some v =>
    simp only [putBit_two]
    rfl

theorem nmiEntry_paid (s : State) :
    nmiEntry s = { s with
      ram := pushed (pushedWord s.ram s.cpu.sp s.cpu.pc) (s.cpu.sp - 2#8) ((s.cpu.resolvedP &&& 0xEF#8) ||| 0x20#8)
      cpu := { paid s.cpu 7 with
        sp := s.cpu.sp - 3#8, p := s.cpu.resolvedP ||| 0x04#8, pendI := none, nmiPending := false
        pc := vectorWord s.cart 0x7FFA } } := by
  rw [nmiEntry_eq_enterInterrupt, enterInterrupt_eq_pushed _ (by decide) (by decide)]
  rfl

end Sys2Proof.Machine

open Sys2Proof Sys2Proof.Machine

/-- Settles O8: a CPU step that is due looks at the request first, and takes the NMI. -/
theorem pendingNmiIsEntered : Obligations.PendingNmiIsEntered := by
  unfold Obligations.PendingNmiIsEntered
  intro s hdue hn
  rw [step_of_cpuDue hdue, cpuStep, if_pos hn, nmiEntry_paid]
  rfl

end

section
/-! PROOF. CPU time is conserved (O52) (48_dispatcher R402, 20_memory R72): a grant adds to `credit`, and whatever else a step
charges it charges alike to `cycles` and to `credit`. -/

namespace Sys2Proof.Machine

variable {s t : State}

/-- CPU time: the cycles spent and the cycles still to spend (D25). -/
def Cpu.time (c : Cpu) : Int := c.cycles + c.credit

namespace Charged

/-- A charge moves CPU time from `credit` to `cycles` (R402). -/
theorem time {n : Nat} (h : Charged n s t) : t.cpu.time = s.cpu.time := by
  unfold Cpu.time
  rw [h.cycles, h.credit]
  omega

theorem trans {m n : Nat} {u : State} (h : Charged m s t) (h' : Charged n t u) : Charged (m + n) s u where
  cycles := by rw [h'.cycles, h.cycles, Nat.add_assoc]
  credit := by
    rw [h'.credit, h.credit]
    omega

end Charged

theorem nmiEntry_charged (s : State) : Charged 7 s (nmiEntry s) := by
  rw [nmiEntry_paid]
  exact ⟨rfl, rfl⟩

theorem fetchInstr_charged {i : Instr} (h : fetchInstr s = some (i, t)) : Charged 0 s t := by
  rw [fetchInstr_frame h]
  exact .of_accounts

theorem complete_charged (i : Instr) (s : State) : Charged 0 s (complete i s) := by
  rw [complete_eq_completed]
  exact .of_accounts

/-- An instruction step charges what its instruction does: the fetch and the slot are free (R402). -/
theorem instruction_charged {i : Instr} {u : State} (hf : fetchInstr s = some (i, t)) (he : exec i t = .next u) :
    Charged (i.row.baseCycles + Claims.extraCycles i t) s (complete i u) := by
  simpa using ((fetchInstr_charged hf).trans (exec_charged he)).trans (complete_charged i u)

theorem invalidOpcode_charged (s : State) : Charged 0 s (invalidOpcode s) :=
  .of_accounts (congrArg Cpu.cycles (invalidOpcode_cpu s)) (congrArg Cpu.credit (invalidOpcode_cpu s))

theorem ppuTurn_charged (dots : Nat) (s : State) : Charged 0 s (ppuTurn dots s) := by
  have hframe := ppuStep_frame dots s
  exact .of_accounts (congrArg (·.cpu.cycles) hframe) (congrArg (·.cpu.credit) hframe)

end Sys2Proof.Machine

open Sys2Proof Sys2Proof.Machine

/-- Settles O52: the grant adds its cycles to `credit`, and the four other ways a step answers are charges. -/
theorem cyclesPlusCreditIsTheGrant : Obligations.CyclesPlusCreditIsTheGrant := by
  unfold Obligations.CyclesPlusCreditIsTheGrant
  intro s t h
  change t.cpu.time = s.cpu.time + _
  have inCpu {dots : Nat} (hd : s.turn = .cpu dots) {n : Nat} (ht : Charged n s t) : t.cpu.time = s.cpu.time
      + match s.turn with
        | .idle | .grant => (((s.acc + 12) / 12 : Nat) : Int)
        | .cpu _ => 0 := by
    rw [hd, ht.time]
    exact (Int.add_zero _).symm
  cases (step_cases h).2 with
  | grant hturn =>
    obtain hturn | hturn := hturn
    all_goals
      rw [hturn]
      exact (Int.add_assoc _ _ _).symm
  | ppu dots hd _ => exact inCpu hd (ppuTurn_charged dots s)
  | nmi dots hd _ _ => exact inCpu hd (nmiEntry_charged s)
  | invalid dots hd _ _ _ => exact inCpu hd (invalidOpcode_charged s)
  | instr dots i s1 s2 hd _ _ hf he => exact inCpu hd (instruction_charged hf he)

end

section
/-! PROOF. The nametables (O40) (47_cartridge R377, R378): the cell an address reaches in each mirroring mode, and what a read
and a write of that cell are. -/

namespace Sys2Proof.Machine

/-- Where the cell is one of CIRAM, a read reads it and a write changes nothing else (R378). -/
theorem nametable_of_ciram {c : Cartridge} {a : PpuAddr} {k : Nat} (h : ntCell c.mirroring a = .ciram k) (p : Ppu)
    (d : Byte) : readNametable p c a = p.ciram.read k
      ∧ writeNametable p c a d = ({ p with ciram := p.ciram.write k d }, c) := by
  unfold readNametable writeNametable
  rw [h]
  exact ⟨rfl, rfl⟩

/-- Where the cell is one of the four-screen RAM, a read reads it and a write changes nothing else (R378). -/
theorem nametable_of_fourRam {c : Cartridge} {a : PpuAddr} {k : Nat} (h : ntCell c.mirroring a = .fourRam k) (p : Ppu)
    (d : Byte) : readNametable p c a = c.fourRam.read k
      ∧ writeNametable p c a d = (p, { c with fourRam := c.fourRam.write k d }) := by
  unfold readNametable writeNametable
  rw [h]
  exact ⟨rfl, rfl⟩

/-- Horizontal mirroring pairs the top two quadrants and the bottom two (R377). -/
theorem page_horizontal {q : Nat} (hq : q < 4) : Mirroring.horizontal.page q = if q = 0 ∨ q = 1 then 0 else 1 := by
  interval_cases q <;> rfl

/-- Vertical mirroring pairs the left two quadrants and the right two (R377). -/
theorem page_vertical {q : Nat} (hq : q < 4) : Mirroring.vertical.page q = if q = 0 ∨ q = 2 then 0 else 1 := by
  interval_cases q <;> rfl

end Sys2Proof.Machine

open Sys2Proof Sys2Proof.Machine

/-- Settles O40: in each mode the cell that `ntCell` gives, its page the one of the address's quadrant. -/
theorem nametablesAreMirrored : Obligations.NametablesAreMirrored := by
  unfold Obligations.NametablesAreMirrored
  intro a d p c _ _ a' q o inCiram
  have hq : q < 4 := Nat.div_lt_of_lt_mul (Nat.mod_lt _ (by decide))
  refine ⟨fun hm => ?_, fun hm => ?_, fun hm => ?_, fun hm => ?_, fun hm => ?_⟩
  · rw [← page_horizontal hq]
    exact nametable_of_ciram (by rw [hm]; rfl) p d
  · rw [← page_vertical hq]
    exact nametable_of_ciram (by rw [hm]; rfl) p d
  · exact nametable_of_ciram (by rw [hm]; rfl) p d
  · exact nametable_of_ciram (by rw [hm]; rfl) p d
  · exact nametable_of_fourRam (by rw [hm]; rfl) p d

end

section
/-! PROOF. Ticks leave the CPU and the memories alone (O50) (46_ppu_frame R335, 60_exceptions R421, R440): the registers only
ports write, and the NMI latch. -/

namespace Sys2Proof.Machine

/-- From `p` to `q`, the PPU's registers that only ports write are the same. -/
structure RegistersKept (p q : Ppu) : Prop where
  ctrl : q.ctrl = p.ctrl
  mask : q.mask = p.mask
  oamaddr : q.oamaddr = p.oamaddr
  t : q.t = p.t
  x : q.x = p.x
  w : q.w = p.w
  rdbuf : q.rdbuf = p.rdbuf

namespace RegistersKept

variable {p q r : Ppu}

theorem refl : RegistersKept p p := ⟨rfl, rfl, rfl, rfl, rfl, rfl, rfl⟩

theorem trans (h : RegistersKept p q) (h' : RegistersKept q r) : RegistersKept p r where
  ctrl := h'.ctrl.trans h.ctrl
  mask := h'.mask.trans h.mask
  oamaddr := h'.oamaddr.trans h.oamaddr
  t := h'.t.trans h.t
  x := h'.x.trans h.x
  w := h'.w.trans h.w
  rdbuf := h'.rdbuf.trans h.rdbuf

end RegistersKept

/-- A tick writes none of the port registers (R335). -/
theorem tick_registersKept (s : State) : RegistersKept s.ppu (tick s).1.ppu := by
  rw [tick_ppu, handOver_frame, advancePosition_frame, ppuEvents_frame]
  exact ⟨rfl, rfl, rfl, rfl, rfl, rfl, rfl⟩

theorem ppuStep_registersKept (n : Nat) (s : State) : RegistersKept s.ppu (ppuStep n s).1.ppu := by
  induction n generalizing s with
  | zero => exact .refl
  | succ n ih => exact (tick_registersKept s).trans (ih (tick s).1)

/-- Ticks withdraw no NMI request (R421). -/
theorem ppuStep_nmiPending_of_pending (n : Nat) {s : State} (h : s.cpu.nmiPending = true) :
    (ppuStep n s).1.cpu.nmiPending = true := by
  induction n generalizing s with
  | zero => exact h
  | succ n ih => exact ih (by rw [tick_nmiPending, h, Bool.true_or])

/-- Ticks make no NMI request while NMIE is clear (R348, R421). -/
theorem ppuStep_nmiPending_of_disabled (n : Nat) {s : State} (h : s.ppu.ctrl.getLsbD 7 = false) :
    (ppuStep n s).1.cpu.nmiPending = s.cpu.nmiPending := by
  induction n generalizing s with
  | zero => rfl
  | succ n ih =>
    have htick : (tick s).1.cpu.nmiPending = s.cpu.nmiPending := by
      rw [tick_nmiPending, h, Bool.and_false, Bool.or_false]
    exact (ih ((tick_registersKept s).ctrl ▸ h)).trans htick

end Sys2Proof.Machine

open Sys2Proof Sys2Proof.Machine

/-- Settles O50: the frame of any number of ticks, the registers and arrays they keep, and the two facts about the latch. -/
theorem ticksLeaveCpuAndMemoryAlone : Obligations.TicksLeaveCpuAndMemoryAlone := by
  unfold Obligations.TicksLeaveCpuAndMemoryAlone
  intro n s
  obtain ⟨ctrl, mask, oamaddr, t, x, w, rdbuf⟩ := ppuStep_registersKept n s
  obtain ⟨oam, pal, ciram⟩ := ppuStep_arraysKept n s
  exact ⟨ppuStep_frame n s, ctrl, mask, oamaddr, t, x, w, rdbuf, oam, pal, ciram,
    ppuStep_nmiPending_of_pending n, ppuStep_nmiPending_of_disabled n⟩

end

section
/-! PROOF. The two resets and the preconditions of the host's calls (O54 to O56) (48_dispatcher R407, 70_reset_and_hazards
R460, R461, R464). -/

namespace Sys2Proof.Machine

open Sys2Proof.Claims

variable {s : State} {α : Type}

/-! ### The guard of a call -/

theorem betweenFrames_of_idle (h : s.turn = .idle) : s.betweenFrames = true := by
  simp [State.betweenFrames, h]

/-- Inside a run_frame no call may be made (R407). -/
theorem betweenFrames_of_inside (hf : s.fault = none) (h : s.turn ≠ .idle) : s.betweenFrames = false := by
  simp [State.betweenFrames, hf, h]

theorem withCartridge_ok (h : s.betweenFrames = true) (hb : s.boot ≠ .noCartridge) (r : α) :
    withCartridge s r = .ok r := by
  unfold withCartridge
  rw [if_pos h]
  cases hboot : s.boot with
  | noCartridge => exact absurd hboot hb
  | loaded => rfl
  | ready => rfl

theorem withCartridge_noCartridge (h : s.betweenFrames = true) (hb : s.boot = .noCartridge) (r : α) :
    withCartridge s r = .error .noCartridge := by
  unfold withCartridge
  rw [if_pos h, hb]

theorem withCartridge_inside (h : s.betweenFrames = false) (r : α) : withCartridge s r = .error .callInsideFrame := by
  unfold withCartridge
  rw [h]
  rfl

theorem hostLoad_inside (h : s.betweenFrames = false) (l : LoadInit) (bs : List Byte) :
    hostLoad l bs s = .error .callInsideFrame := by
  unfold hostLoad
  rw [h]
  rfl

theorem runFrame_inside (h : s.betweenFrames = false) : runFrame s = .refused .callInsideFrame := by
  unfold runFrame
  rw [h]
  rfl

/-! ### The step of a machine that is not ready -/

theorem step_of_noCartridge (hf : s.fault = none) (h : s.boot = .noCartridge) : step s = .refused .noCartridge := by
  unfold step
  rw [hf, h]

theorem step_of_loaded (hf : s.fault = none) (h : s.boot = .loaded) : step s = .refused .runBeforeReset := by
  unfold step
  rw [hf, h]

/-! ### The resets -/

/-- The reset vector is two bytes of PRG (R80). -/
theorem read16_resetVector (s : State) : (read16 resetVector s).1 = vectorWord s.cart 0x7FFC := by
  rw [read16_vector (by decide) (by decide), wordOf_eq_ofNat]
  rfl

theorem hardResetState_eq (i : PowerUp) (s : State) :
    hardResetState i s = { s with
      cpu := Cpu.reset (vectorWord s.cart 0x7FFC), ram := i.ram, ppu := Ppu.reset i.oam i.pal i.ciram
      acc := 0, turn := .idle } := by
  rw [hardResetState, read16_resetVector]
  rfl

theorem softResetState_eq (s : State) :
    softResetState s = { s with
      cpu := { s.cpu with
        sp := BitVec.ofNat 8 (s.cpu.sp.toNat + 253), p := s.cpu.p ||| 0x04#8, pendI := none, carryI := none
        nmiPending := false, credit := 0, pc := vectorWord s.cart 0x7FFC }
      ppu := s.ppu.softReset, acc := 0, turn := .idle } := by
  have hsp : s.cpu.sp - 3#8 = BitVec.ofNat 8 (s.cpu.sp.toNat + 253) := sub_eq_ofNat s.cpu.sp 3#8
  rw [softResetState, read16_resetVector, Cpu.softReset, setI, putBit_two_true, hsp]
  rfl

end Sys2Proof.Machine

open Sys2Proof Sys2Proof.Machine

/-- Settles O54: the guard admits the call, and the values are those of the reset CPU and PPU. -/
theorem hardReset : Obligations.HardReset := by
  unfold Obligations.HardReset
  intro i s hbetween hboot
  refine ⟨[], [], ?_⟩
  rw [hostHardReset, withCartridge_ok hbetween hboot, hardResetState_eq]
  rfl

/-- Settles O55: the guard admits the call, and what the reset changes is written out. -/
theorem softReset : Obligations.SoftReset := by
  unfold Obligations.SoftReset
  intro s hbetween hboot
  rw [hostReset, withCartridge_ok hbetween hboot, softResetState_eq]
  rfl

/-- Settles O56: every call but load and run_frame has the one guard, which looks at the frame and then at the cartridge. -/
theorem hostCallPreconditions : Obligations.HostCallPreconditions := by
  unfold Obligations.HostCallPreconditions
  refine ⟨fun s i l bs a v hfault => ⟨fun hboot => ⟨?_, fun hidle => ?_⟩, fun hboot => ?_, fun hturn => ?_⟩,
    fun s a v hbetween hboot => ⟨withCartridge_ok hbetween hboot _, withCartridge_ok hbetween hboot _⟩⟩
  · exact step_of_noCartridge hfault hboot
  · have refused {α : Type} (r : α) : withCartridge s r = .error .noCartridge :=
      withCartridge_noCartridge (betweenFrames_of_idle hidle) hboot r
    exact ⟨refused _, refused _, refused _, refused _⟩
  · exact step_of_loaded hfault hboot
  · have hinside := betweenFrames_of_inside hfault hturn
    have refused {α : Type} (r : α) : withCartridge s r = .error .callInsideFrame := withCartridge_inside hinside r
    exact ⟨refused _, refused _, refused _, refused _, hostLoad_inside hinside l bs, runFrame_inside hinside⟩

end

section
/-! PROOF. The dispatcher (O51, O53) (48_dispatcher R401 to R406): the stages of an iteration, what becomes of the frame, and
the number of steps a run_frame can still take, which every step lowers. -/

namespace Sys2Proof.Machine

open Sys2Proof.Claims

variable {s t u : State}

/-! ### The stages of an iteration -/

theorem running_iff : s.running = true ↔ s.fault = none ∧ s.boot = .ready := by
  simp [State.running]

theorem step_of_running (h : s.running = true) : step s = dispatch s := by
  obtain ⟨hf, hb⟩ := running_iff.mp h
  unfold step
  rw [hf, hb]

theorem dispatch_top (h : s.turn = .idle ∨ s.turn = .grant) : dispatch s = .next (grant s) := by
  unfold dispatch
  obtain h | h := h
  · rw [h]
  · rw [h]

theorem dispatch_spent {dots : Nat} (h : s.turn = .cpu dots) (hc : s.cpu.credit ≤ 0) :
    dispatch s = .next (ppuTurn dots s) := by
  unfold dispatch
  rw [h]
  exact if_neg (by omega)

theorem dispatch_due {dots : Nat} (h : s.turn = .cpu dots) (hc : 0 < s.cpu.credit) : dispatch s = cpuStep s := by
  unfold dispatch
  rw [h]
  exact if_pos hc

/-- A CPU step always completes: with the NMI entered, the fault mark set, or an instruction run (R402). -/
theorem cpuStep_next (s : State) : ∃ t, cpuStep s = .next t := by
  unfold cpuStep instruction
  split
  · exact ⟨_, rfl⟩
  · cases fetchInstr s with
    | none => exact ⟨_, rfl⟩
    | some f =>
      obtain ⟨t, ht⟩ := exec_next f.1 f.2
      exact ⟨complete f.1 t, by simp only [ht]⟩

/-- A running machine always has a next state (R405). -/
theorem step_next (h : s.running = true) : ∃ t, step s = .next t := by
  rw [step_of_running h]
  cases hturn : s.turn with
  | idle => exact ⟨_, dispatch_top (.inl hturn)⟩
  | grant => exact ⟨_, dispatch_top (.inr hturn)⟩
  | cpu dots =>
    by_cases hc : 0 < s.cpu.credit
    · rw [dispatch_due hturn hc]
      exact cpuStep_next s
    · exact ⟨_, dispatch_spent hturn (by omega)⟩

/-! ### The frame handed over -/

/-- Only the tick at the last position completes the frame (R331, R333). -/
theorem position_of_frameComplete (h : (tick s).2 = true) : s.ppu.dot = 340 ∧ s.ppu.scanline = 261 := by
  obtain ⟨hdot, hline, -⟩ := ppuEvents_position s.cart s.ppu
  rw [tick_frameComplete] at h
  by_cases hd : (ppuEvents s.cart s.ppu).dot + 1 = 341
  · by_cases hl : (ppuEvents s.cart s.ppu).scanline + 1 = 262
    · omega
    · rw [advancePosition_lineEnd hd hl] at h
      cases h
  · rw [advancePosition_inLine hd] at h
    cases h

/-- The tick that completes a frame hands the buffer over as it stood and empties it (R345, R44). -/
theorem tick_handsOver (h : (tick s).2 = true) : (tick s).1.ppu.frame = s.ppu.fb ∧ (tick s).1.ppu.fb = [] := by
  obtain ⟨hd, hl⟩ := position_of_frameComplete h
  have hevents : ppuEvents s.cart s.ppu = s.ppu :=
    ppuEvents_none _ (by omega) (by omega) (by omega) (by omega) (by omega)
  rw [tick_ppu, h, hevents, advancePosition_frame]
  exact ⟨rfl, rfl⟩

/-- The loop returns the frame its last state holds (R403). -/
theorem runLoop_frame {k : Nat} {fb : List (Nat × List Pixel)} (h : runLoop k s = .frame fb t) : fb = t.ppu.frame := by
  induction k generalizing s with
  | zero => cases h
  | succ k ih =>
    unfold runLoop at h
    cases hstep : step s with
    | fault f =>
      rw [hstep] at h
      cases h
    | refused r =>
      rw [hstep] at h
      cases h
    | next u =>
      simp only [hstep] at h
      split at h
      · cases h
        rfl
      · exact ih h

theorem runFrame_frame {fb : List (Nat × List Pixel)} (h : runFrame s = .frame fb t) : fb = t.ppu.frame := by
  unfold runFrame at h
  split at h
  · exact runLoop_frame h
  · cases h

/-! ### What holds inside a run_frame -/

/-- A path leaves the host's progress alone. -/
theorem CpuPath.boot (h : CpuPath s t) : t.boot = s.boot := by
  induction h with
  | refl => rfl
  | memRead _ a ih => rwa [memRead_boot]
  | @memWrite t _ c a v ih =>
    obtain ⟨k, hk⟩ := memWrite_state c a v t
    rw [hk]
    exact ih
  | setCpu _ _ ih => exact ih
  | setFault _ _ ih => exact ih

/-- The states of a run_frame called between calls: each iteration has granted 3 dots and at most 1 cycle of credit, since
SLICE is 12 and the credit was spent before (R401, R402). -/
structure InFrame (s : State) : Prop where
  wf : s.wf = true
  boot : s.boot = .ready
  iteration : ∀ dots, s.turn = .cpu dots → dots = 3 ∧ s.cpu.credit ≤ 1

/-- At the top of an iteration of a well-formed state the accumulator is zero and the credit spent (R401). -/
theorem dispatcher_top (h : s.wf = true) (hturn : s.turn = .idle ∨ s.turn = .grant) : s.acc = 0 ∧ s.cpu.credit ≤ 0 := by
  obtain ⟨-, -, -, -, hdisp⟩ := State.wf_iff.mp h
  unfold State.dispatcherWf at hdisp
  obtain hturn | hturn := hturn
  all_goals simpa [hturn] using hdisp

theorem InFrame.of_cpuPath {n : Nat} (h : InFrame s) (hstep : step s = .next t) (hpath : CpuPath s t)
    (hcost : Charged n s t) : InFrame t where
  wf := step_wf h.wf hstep
  boot := hpath.boot.trans h.boot
  iteration := fun dots' ht => by
    obtain ⟨hdots, hcredit⟩ := h.iteration dots' (hpath.dispatcher.2.symm.trans ht)
    exact ⟨hdots, by rw [hcost.credit]; omega⟩

theorem ppuTurn_turn (dots : Nat) (s : State) :
    (ppuTurn dots s).turn = if (ppuStep dots s).2 then .idle else .grant := rfl

theorem ppuTurn_turn_ne_cpu (dots dots' : Nat) (s : State) : (ppuTurn dots s).turn ≠ .cpu dots' := by
  rw [ppuTurn_turn]
  split <;> exact nofun

/-- The dots end the run_frame when they complete a frame (R403). -/
theorem ppuTurn_idle_iff (dots : Nat) (s : State) : (ppuTurn dots s).turn = .idle ↔ (ppuStep dots s).2 = true := by
  rw [ppuTurn_turn]
  cases (ppuStep dots s).2 <;> simp

theorem step_inFrame (h : InFrame s) (hstep : step s = .next t) : InFrame t := by
  cases (step_cases hstep).2 with
  | grant hturn =>
    obtain ⟨hacc, hcredit⟩ := dispatcher_top h.wf hturn
    refine ⟨step_wf h.wf hstep, h.boot, fun dots hdots => ?_⟩
    have hdots : Turn.cpu ((s.acc + 12) / 4) = .cpu dots := hdots
    have hgrant : (grant s).cpu.credit = s.cpu.credit + ((s.acc + 12) / 12 : Nat) := rfl
    rw [hacc] at hdots hgrant
    exact ⟨(Turn.cpu.inj hdots).symm, by omega⟩
  | ppu dots _ _ =>
    refine ⟨step_wf h.wf hstep, ?_, fun dots' ht => absurd ht (ppuTurn_turn_ne_cpu dots dots' s)⟩
    exact (congrArg State.boot (ppuStep_frame dots s)).trans h.boot
  | nmi dots hd _ _ => exact h.of_cpuPath hstep (nmiEntry_cpuPath s) (nmiEntry_charged s)
  | invalid dots hd _ _ _ => exact h.of_cpuPath hstep (invalidOpcode_cpuPath s) (invalidOpcode_charged s)
  | instr dots i s1 s2 hd _ _ hf he =>
    exact h.of_cpuPath hstep (instruction_cpuPath hf he) (instruction_charged hf he)

/-! ### The end of the frame -/

/-- Ticks that reach the last position complete the frame (R333). -/
theorem ppuStep_complete (n : Nat) (hd : s.ppu.dot ≤ 340) (hpos : s.ppu.position < 89342)
    (h : 89342 ≤ s.ppu.position + n) : (ppuStep n s).2 = true := by
  induction n generalizing s with
  | zero => omega
  | succ n ih =>
    rw [ppuStep_succ]
    by_cases hlast : s.ppu.position + 1 = 89342
    · rw [(tick_lastPosition hd hlast).1, Bool.true_or]
    · obtain ⟨-, hnext, hd', -⟩ := tick_position hd (by omega)
      rw [ih hd' (by omega) (by omega), Bool.or_true]

theorem FrameInv.position_lt {p : Ppu} (h : FrameInv p) : p.position < 89342 := by
  have := h.dot
  have := h.scanline
  unfold Ppu.position
  omega

/-- A step that ends the run_frame leaves no fault and the sink with all 240 lines (R403, C7). -/
theorem frame_of_idle (h : InFrame s) (hstep : step s = .next t) (hidle : t.turn = .idle) :
    t.fault = none ∧ linesWf 240 t.ppu.frame = true := by
  obtain ⟨hrun, hto⟩ := step_cases hstep
  have not_path {dots : Nat} (hd : s.turn = .cpu dots) (hpath : CpuPath s t) : False :=
    nomatch hidle.symm.trans (hpath.dispatcher.2.trans hd)
  cases hto with
  | grant _ => cases hidle
  | ppu dots hd _ =>
    obtain ⟨-, -, hframe, -, -⟩ := State.wf_iff.mp h.wf
    have hcomplete := (ppuTurn_idle_iff dots s).mp hidle
    refine ⟨(congrArg State.fault (ppuStep_frame dots s)).trans (running_iff.mp hrun).1, ?_⟩
    exact (ppuStep_frameInv dots hframe).2 (.inl hcomplete)
  | nmi dots hd _ _ => exact (not_path hd (nmiEntry_cpuPath s)).elim
  | invalid dots hd _ _ _ => exact (not_path hd (invalidOpcode_cpuPath s)).elim
  | instr dots i s1 s2 hd _ _ hf he => exact (not_path hd (instruction_cpuPath hf he)).elim

/-! ### The steps a run_frame can still take -/

/-- The steps of the iteration at hand that its own dots do not pay for: 2 at its top, 1 while a CPU step is due. -/
def stagesLeft (s : State) : Nat :=
  match s.turn with
  | .idle | .grant => 2
  | .cpu _ => if 0 < s.cpu.credit then 1 else 0

/-- A bound on the steps to the end of the run_frame: each dot to come counts 1, so the 3 dots of an iteration pay for its 3
stages. On a faulted machine there are none. -/
def stepsLeft (s : State) : Nat := if s.fault.isSome then 0 else 89342 - s.ppu.position + stagesLeft s

theorem stagesLeft_top (h : s.turn = .idle ∨ s.turn = .grant) : stagesLeft s = 2 := by
  unfold stagesLeft
  obtain h | h := h
  · rw [h]
  · rw [h]

theorem stagesLeft_cpu {dots : Nat} (h : s.turn = .cpu dots) : stagesLeft s = if 0 < s.cpu.credit then 1 else 0 := by
  unfold stagesLeft
  rw [h]

theorem stagesLeft_le (s : State) : stagesLeft s ≤ 2 := by
  cases h : s.turn with
  | idle => rw [stagesLeft_top (.inl h)]
  | grant => rw [stagesLeft_top (.inr h)]
  | cpu dots =>
    rw [stagesLeft_cpu h]
    split <;> omega

theorem stepsLeft_le (s : State) : stepsLeft s ≤ 89342 - s.ppu.position + stagesLeft s := by
  unfold stepsLeft
  split <;> omega

theorem stepsLeft_of_running (h : s.running = true) : stepsLeft s = 89342 - s.ppu.position + stagesLeft s := by
  unfold stepsLeft
  rw [(running_iff.mp h).1]
  rfl

theorem baseCycles_pos (i : Instr) : 0 < i.row.baseCycles := by
  cases i <;> exact Nat.succ_pos _

theorem DisplayKept.position {p q : Ppu} (h : DisplayKept p q) : q.position = p.position := by
  unfold Ppu.position
  rw [h.dot, h.scanline]

/-- A CPU step that charges a cycle spends the credit of its iteration. -/
theorem stepsLeft_of_cpuPath {n dots : Nat} (h : InFrame s) (hturn : s.turn = .cpu dots) (hpath : CpuPath s t)
    (hn : 0 < n) (hcost : Charged n s t) : stepsLeft t ≤ 89342 - s.ppu.position := by
  have hcredit : t.cpu.credit ≤ 0 := by
    have := (h.iteration dots hturn).2
    rw [hcost.credit]
    omega
  have hstages : stagesLeft t = 0 := by
    rw [stagesLeft_cpu (hpath.dispatcher.2.trans hturn), if_neg (by omega)]
  have hle := stepsLeft_le t
  rwa [hstages, hpath.displayKept.position] at hle

/-- Every step but the last brings the run_frame nearer to its end. -/
theorem stepsLeft_lt (h : InFrame s) (hstep : step s = .next t) (hturn : t.turn ≠ .idle) : stepsLeft t < stepsLeft s := by
  obtain ⟨-, -, hframe, -, -⟩ := State.wf_iff.mp h.wf
  have hpos := hframe.position_lt
  obtain ⟨hrun, hto⟩ := step_cases hstep
  rw [stepsLeft_of_running hrun]
  cases hto with
  | grant htop =>
    have hle := stepsLeft_le (grant s)
    have hstages : stagesLeft (grant s) ≤ 1 := by
      rw [stagesLeft_cpu rfl]
      split <;> omega
    have hsame : (grant s).ppu.position = s.ppu.position := rfl
    rw [stagesLeft_top htop]
    omega
  | ppu dots hd hc =>
    obtain ⟨hdots, -⟩ := h.iteration dots hd
    subst hdots
    have hmore : s.ppu.position + 3 < 89342 := by
      by_contra hend
      exact hturn ((ppuTurn_idle_iff 3 s).mpr (ppuStep_complete 3 hframe.dot hpos (by omega)))
    have hnext : (ppuTurn 3 s).ppu.position = s.ppu.position + 3 := (ppuStep_position 3 hframe.dot hmore).2.1
    have hle := stepsLeft_le (ppuTurn 3 s)
    have := stagesLeft_le (ppuTurn 3 s)
    omega
  | nmi dots hd hc _ =>
    have := stepsLeft_of_cpuPath h hd (nmiEntry_cpuPath s) (by decide) (nmiEntry_charged s)
    rw [stagesLeft_cpu hd, if_pos hc]
    omega
  | invalid dots hd _ _ _ =>
    have hnone : stepsLeft (invalidOpcode s) = 0 := rfl
    omega
  | instr dots i s1 s2 hd hc _ hf he =>
    have := baseCycles_pos i
    have := stepsLeft_of_cpuPath h hd (instruction_cpuPath hf he) (by omega) (instruction_charged hf he)
    rw [stagesLeft_cpu hd, if_pos hc]
    omega

/-! ### The loop ends -/

/-- What R406 says a run_frame returns: a whole frame and a position in its bounds, or the fault. -/
def EndsWell (r : FrameResult) : Prop :=
  (∃ fb t, r = .frame fb t ∧ t.ppu.dot < 341 ∧ t.ppu.scanline < 262 ∧ linesWf 240 fb = true)
    ∨ ∃ f t, r = .fault f t

theorem runLoop_endsWell {k : Nat} (h : InFrame s) (hk : stepsLeft s < k) : EndsWell (runLoop k s) := by
  induction k generalizing s with
  | zero => omega
  | succ k ih =>
    unfold runLoop
    cases hfault : s.fault with
    | some f =>
      rw [step_of_fault hfault]
      exact .inr ⟨f, s, rfl⟩
    | none =>
      obtain ⟨t, hstep⟩ := step_next (running_iff.mpr ⟨hfault, h.boot⟩)
      have ht := step_inFrame h hstep
      simp only [hstep]
      split
      · next hend =>
        obtain ⟨-, -, hframe, -, -⟩ := State.wf_iff.mp ht.wf
        have hdot := hframe.dot
        have hline := hframe.scanline
        exact .inl ⟨_, t, rfl, by omega, by omega, (frame_of_idle h hstep hend.2).2⟩
      · next hmore =>
        have hturn : t.turn ≠ .idle := fun hidle => hmore ⟨(frame_of_idle h hstep hidle).1, hidle⟩
        have := stepsLeft_lt h hstep hturn
        exact ih ht (by omega)

/-- From between calls a run_frame has fewer than 90000 steps to take (R406). -/
theorem runFrame_endsWell (hwf : s.wf = true) (hrun : s.running = true) (hturn : s.turn = .idle) :
    EndsWell (runFrame s) := by
  have hframe : InFrame s := ⟨hwf, (running_iff.mp hrun).2, fun dots hd => nomatch hturn.symm.trans hd⟩
  rw [runFrame, if_pos (betweenFrames_of_idle hturn)]
  refine runLoop_endsWell hframe ?_
  have := stepsLeft_le s
  have := stagesLeft_le s
  unfold frameFuel
  omega

/-- A buffer of `n` lines holds each of them, 256 pixels long (R44). -/
theorem line_of_linesWf {n y : Nat} {fb : List (Nat × List Pixel)} (h : linesWf n fb = true) (hy : y < n) :
    ∃ px : List Pixel, (y, px) ∈ fb ∧ px.length = 256 := by
  simp only [linesWf, Bool.and_eq_true, beq_iff_eq, List.all_eq_true] at h
  obtain ⟨hlines, hlength⟩ := h
  have hmem : y ∈ fb.map Prod.fst := by rw [hlines]; exact List.mem_range.mpr hy
  obtain ⟨⟨_, px⟩, hpx, rfl⟩ := List.mem_map.mp hmem
  exact ⟨px, hpx, hlength _ hpx⟩

end Sys2Proof.Machine

open Sys2Proof Sys2Proof.Machine

/-- Settles O51: the stages of the loop, the tick that hands the frame over, and the frame the loop returns. -/
theorem dispatcherIteration : Obligations.DispatcherIteration := by
  unfold Obligations.DispatcherIteration
  refine ⟨fun s hrun => ?_, fun s h => tick_handsOver h, fun s t fb h => runFrame_frame h⟩
  rw [step_of_running hrun]
  exact ⟨dispatch_top, fun dots hd hc => dispatch_spent hd hc⟩

/-- Settles O53: the loop ends before its fuel does, and a frame it returns holds every line. -/
theorem runFrameTerminates : Obligations.RunFrameTerminates := by
  unfold Obligations.RunFrameTerminates
  intro s hwf hrun hturn
  obtain ⟨fb, t, hframe, hdot, hline, hlines⟩ | hfault := runFrame_endsWell hwf hrun hturn
  · exact .inl ⟨fb, t, hframe, hdot, hline, fun y hy => line_of_linesWf hlines hy⟩
  · exact .inr hfault

end

section
/-! PROOF. The load (O57) (47_cartridge R371, R379, R380, 48_dispatcher R407): the fields of a container that is as long as its
header says, the checks of a cartridge's typed inputs, and the call. -/

namespace Sys2Proof.Machine

/-! ### Containers that are refused -/

theorem containerByte_append {bs : List Byte} {k : Nat} (h : k < bs.length) (extra : List Byte) :
    containerByte (bs ++ extra) k = containerByte bs k := by
  unfold containerByte
  rw [List.getElem?_append_left h]

theorem containerByte_take {k n : Nat} (h : k < n) (bs : List Byte) :
    containerByte (bs.take n) k = containerByte bs k := by
  unfold containerByte
  rw [List.getElem?_take_of_lt h]

/-- Trailing bytes do not change the length the header declares. -/
theorem containerLength_append {bs : List Byte} (h : 7 ≤ bs.length) (extra : List Byte) :
    containerLength (bs ++ extra) = containerLength bs := by
  unfold containerLength
  rw [containerByte_append (by omega), containerByte_append (by omega), containerByte_append (by omega)]

/-- A cut behind the header does not change the length it declares. -/
theorem containerLength_take {n : Nat} (h : 7 ≤ n) (bs : List Byte) :
    containerLength (bs.take n) = containerLength bs := by
  unfold containerLength
  rw [containerByte_take (by omega), containerByte_take (by omega), containerByte_take (by omega)]

theorem sixteen_le_containerLength (bs : List Byte) : 16 ≤ containerLength bs := by
  unfold containerLength
  omega

theorem parseContainer_of_magic_ne {bs : List Byte} (h : bs.take 4 ≠ [0x4E#8, 0x45#8, 0x53#8, 0x1A#8]) :
    parseContainer bs = .error .format := if_neg fun hok => h hok.1

theorem parseContainer_of_length_ne {bs : List Byte} (h : bs.length ≠ containerLength bs) :
    parseContainer bs = .error .format := if_neg fun hok => h hok.2.2

section Refused

variable {bs : List Byte} (h : bs.length = containerLength bs)
include h

/-- A container of the declared length with trailing bytes is refused (R380). -/
theorem parseContainer_trailing {extra : List Byte} (hextra : extra ≠ []) :
    parseContainer (bs ++ extra) = .error .format := by
  have := sixteen_le_containerLength bs
  have := List.length_pos_of_ne_nil hextra
  refine parseContainer_of_length_ne ?_
  rw [containerLength_append (by omega), List.length_append]
  omega

/-- A container of the declared length cut short is refused (R380). -/
theorem parseContainer_cut {k : Nat} (hk : k < bs.length) : parseContainer (bs.take k) = .error .format := by
  have hlength : (bs.take k).length = k := List.length_take_of_le (by omega)
  refine parseContainer_of_length_ne ?_
  by_cases hheader : 7 ≤ k
  · rw [hlength, containerLength_take hheader]
    omega
  · have := sixteen_le_containerLength (bs.take k)
    omega

end Refused

/-! ### A container of the declared length -/

/-- The container of a header's fields, the bytes behind them, and the trainer, PRG and CHR data (R380). -/
def container (pages chrPages b6 b7 : Byte) (tail trainer prg chr : List Byte) : List Byte :=
  [0x4E#8, 0x45#8, 0x53#8, 0x1A#8, pages, chrPages, b6, b7] ++ tail ++ trainer ++ prg ++ chr

theorem containerByte_container (pages chrPages b6 b7 : Byte) (tail trainer prg chr : List Byte) :
    let bs := container pages chrPages b6 b7 tail trainer prg chr
    containerByte bs 4 = pages ∧ containerByte bs 5 = chrPages ∧ containerByte bs 6 = b6 ∧ containerByte bs 7 = b7 :=
  ⟨rfl, rfl, rfl, rfl⟩

/-- The parts of a container have the lengths its header declares (R380). -/
structure PartsSized (pages chrPages b6 : Byte) (tail trainer prg chr : List Byte) : Prop where
  tail : tail.length = 8
  trainer : trainer.length = if b6.getLsbD 2 then 512 else 0
  prg : prg.length = 16384 * pages.toNat
  chr : chr.length = 8192 * chrPages.toNat

/-- The typed inputs a container describes (R380). -/
def containerImage (chrPages b6 b7 : Byte) (prg chr : List Byte) : CartImage where
  mapperNumber := b6.toNat / 16 + 16 * (b7.toNat / 16)
  prg := prg
  chr := if chrPages = 0x00#8 then none else some chr
  mirroring := if b6.getLsbD 3 then .fourScreen else if b6.getLsbD 0 then .vertical else .horizontal
  hasSaveRam := b6.getLsbD 1

/-- Data of a whole number of pages has the length of `n` pages if that is its number. -/
theorem length_eq_pages_iff {size : Nat} (hsize : 0 < size) {data : List Byte} {pages : Byte}
    (h : data.length = size * pages.toNat) (n : Byte) : data.length = size * n.toNat ↔ pages = n := by
  rw [h, Nat.mul_right_inj hsize.ne', BitVec.toNat_inj]

section Sized

variable {pages chrPages b6 b7 : Byte} {tail trainer prg chr : List Byte}
variable (h : PartsSized pages chrPages b6 tail trainer prg chr)
include h

/-- The header with the trainer is what stands before the PRG data. -/
theorem length_header_trainer : ([0x4E#8, 0x45#8, 0x53#8, 0x1A#8, pages, chrPages, b6, b7] ++ tail ++ trainer).length
    = 16 + 512 * bitNat (b6.getLsbD 2) := by
  rw [List.length_append, List.length_append, h.tail, h.trainer]
  cases b6.getLsbD 2 <;> rfl

theorem length_container :
    (container pages chrPages b6 b7 tail trainer prg chr).length
      = containerLength (container pages chrPages b6 b7 tail trainer prg chr) := by
  rw [container, List.length_append, List.length_append, length_header_trainer h, h.prg, h.chr]
  rfl

theorem drop_header_trainer :
    (container pages chrPages b6 b7 tail trainer prg chr).drop (16 + 512 * bitNat (b6.getLsbD 2)) = prg ++ chr := by
  rw [container, List.append_assoc _ prg]
  exact List.drop_left' (length_header_trainer h)

/-- A container of the declared length parses to the image it describes (R380). -/
theorem parseContainer_container :
    parseContainer (container pages chrPages b6 b7 tail trainer prg chr)
      = .ok (containerImage chrPages b6 b7 prg chr) := by
  have hlength := length_container (b7 := b7) h
  have hlong := sixteen_le_containerLength (container pages chrPages b6 b7 tail trainer prg chr)
  have hprg : (prg ++ chr).take (16384 * pages.toNat) = prg := List.take_left' h.prg
  have hchr : (prg ++ chr).drop (16384 * pages.toNat) = chr := List.drop_left' h.prg
  obtain ⟨h4, h5, h6, h7⟩ := containerByte_container pages chrPages b6 b7 tail trainer prg chr
  unfold parseContainer containerMapper containerMirroring
  rw [if_pos ⟨rfl, by omega, hlength⟩]
  simp only [h4, h5, h6, h7, drop_header_trainer h, hprg, hchr]
  rfl

/-! ### Its sizes -/

/-- 1 or 2 PRG pages are a size NROM has (R379). -/
theorem prgSize_containerImage : (containerImage chrPages b6 b7 prg chr).prgSize
    = if pages = 0x01#8 then some .kb16 else if pages = 0x02#8 then some .kb32 else none :=
  have hpages := length_eq_pages_iff (by decide) h.prg
  if_congr (hpages 0x01#8) rfl (if_congr (hpages 0x02#8) rfl rfl)

/-- 0 or 1 CHR pages are a size NROM has (R379). -/
theorem chrSizeOk_containerImage :
    (containerImage chrPages b6 b7 prg chr).chrSizeOk = decide (chrPages = 0x00#8 ∨ chrPages = 0x01#8) := by
  have hpage : chr.length = 8192 ↔ chrPages = 0x01#8 := length_eq_pages_iff (by decide) h.chr 0x01#8
  unfold CartImage.chrSizeOk containerImage
  by_cases hzero : chrPages = 0x00#8
  · simp [hzero]
  · simp [hzero, ← hpage, Bool.beq_eq_decide_eq]

end Sized

/-! ### The cartridge of typed inputs -/

section Build

variable (init : LoadInit) {i : CartImage}

theorem buildCartridge_of_mapper_ne (h : i.mapperNumber ≠ 0) :
    buildCartridge init i = .error (.unsupportedMapper i.mapperNumber) := if_pos h

theorem buildCartridge_of_prgSize (hm : i.mapperNumber = 0) (h : i.prgSize = none) :
    buildCartridge init i = .error .unsupportedSize := by
  unfold buildCartridge
  rw [if_neg (not_not_intro hm), h]

theorem buildCartridge_of_chrSize (hm : i.mapperNumber = 0) (h : i.chrSizeOk = false) :
    buildCartridge init i = .error .unsupportedSize := by
  unfold buildCartridge
  rw [if_neg (not_not_intro hm), h]
  cases i.prgSize <;> rfl

/-- The NROM cartridge of a container (R379, R374). -/
def containerCartridge (init : LoadInit) (pages chrPages b6 b7 : Byte) (prg chr : List Byte) : Cartridge :=
  let image := containerImage chrPages b6 b7 prg chr
  { mapper := .nrom, prgSize := if pages = 0x01#8 then .kb16 else .kb32, prg := Memory.ofList prg
    chrKind := if chrPages = 0x00#8 then .ram else .rom, chr := Memory.ofList chr, mirroring := image.mirroring
    hasSaveRam := image.hasSaveRam, sram := if image.hasSaveRam then init.sram else []
    fourRam := if image.mirroring = .fourScreen then init.fourRam else [] }

theorem buildCartridge_containerImage {pages chrPages b6 b7 : Byte} {tail trainer prg chr : List Byte}
    (h : PartsSized pages chrPages b6 tail trainer prg chr)
    (hm : (containerImage chrPages b6 b7 prg chr).mapperNumber = 0) (hpages : pages = 0x01#8 ∨ pages = 0x02#8)
    (hchrPages : chrPages = 0x00#8 ∨ chrPages = 0x01#8) :
    buildCartridge init (containerImage chrPages b6 b7 prg chr)
      = .ok (containerCartridge init pages chrPages b6 b7 prg chr) := by
  have hprg : (containerImage chrPages b6 b7 prg chr).prgSize = some (if pages = 0x01#8 then .kb16 else .kb32) := by
    rw [prgSize_containerImage h]
    obtain rfl | rfl := hpages <;> rfl
  have hchr : (containerImage chrPages b6 b7 prg chr).chrSizeOk = true := by
    rw [chrSizeOk_containerImage h, decide_eq_true hchrPages]
  unfold buildCartridge
  rw [if_neg (not_not_intro hm), hprg, hchr]
  obtain rfl | rfl := hchrPages
  · obtain rfl := List.length_eq_zero_iff.mp h.chr
    rfl
  · rfl

end Build

/-! ### The load -/

theorem loadCartridge_of_image {bs : List Byte} {i : CartImage} (h : parseContainer bs = .ok i) (init : LoadInit) :
    loadCartridge init bs = buildCartridge init i := by
  unfold loadCartridge
  rw [h]

theorem loadCartridge_of_error {bs : List Byte} {e : LoadError} (h : parseContainer bs = .error e) (init : LoadInit) :
    loadCartridge init bs = .error e := by
  unfold loadCartridge
  rw [h]

/-- Between calls a load installs the cartridge it builds, and a hard reset is due (R407). -/
theorem hostLoad_of_ok {init : LoadInit} {bs : List Byte} {s : State} {c : Cartridge} (hs : s.betweenFrames = true)
    (h : loadCartridge init bs = .ok c) : hostLoad init bs s = .ok (.ok { s with cart := c, boot := .loaded }) := by
  unfold hostLoad
  rw [if_pos hs, h]
  rfl

/-- A load that fails gives its error and no new state (R407). -/
theorem hostLoad_of_error {init : LoadInit} {bs : List Byte} {s : State} {e : LoadError} (hs : s.betweenFrames = true)
    (h : loadCartridge init bs = .error e) : hostLoad init bs s = .ok (.error e) := by
  unfold hostLoad
  rw [if_pos hs, h]

end Sys2Proof.Machine

open Sys2Proof Sys2Proof.Machine

/-- Settles O57: a container of the declared length parses to its image, whose mapper and sizes decide the rest; any other
length or magic is a format error. -/
theorem loadBuildsTheCartridge : Obligations.LoadBuildsTheCartridge := by
  unfold Obligations.LoadBuildsTheCartridge
  refine ⟨fun init pages chrPages b6 b7 tail trainer prg chr htail htrainer hprg hchr => ?_,
    fun init bs hmagic => loadCartridge_of_error (parseContainer_of_magic_ne hmagic) init,
    fun init bs s hs => ⟨fun c hc => hostLoad_of_ok hs hc, fun e he => hostLoad_of_error hs he⟩⟩
  intro bytes mapper mirroring
  have hsized : PartsSized pages chrPages b6 tail trainer prg chr := ⟨htail, htrainer, hprg, hchr⟩
  have hlength : bytes.length = containerLength bytes := length_container hsized
  have hload : loadCartridge init bytes = buildCartridge init (containerImage chrPages b6 b7 prg chr) :=
    loadCartridge_of_image (parseContainer_container hsized) init
  rw [hload]
  refine ⟨fun hm hp hc => ?_, fun hm => ?_, fun hm h1 h2 => ?_, fun hm h0 h1 => ?_, fun extra hextra => ?_,
    fun k hk => ?_⟩
  · exact buildCartridge_containerImage init hsized hm hp hc
  · exact buildCartridge_of_mapper_ne init hm
  · refine buildCartridge_of_prgSize init hm ?_
    rw [prgSize_containerImage hsized, if_neg h1, if_neg h2]
  · refine buildCartridge_of_chrSize init hm ?_
    rw [chrSizeOk_containerImage hsized, decide_eq_false (not_or_intro h0 h1)]
  · exact loadCartridge_of_error (parseContainer_trailing hlength hextra) init
  · exact loadCartridge_of_error (parseContainer_cut hlength hk) init

end
